-- ==== Sys2Proof/Word.lean ====
section
/-! DEFINITION. The values of 00_scope.md R13: a bit, a byte, and nothing else (the block has no wider word). -/

namespace Sys2Proof

/-- R13: an unsigned 8-bit value, bit 0 the least significant. -/
abbrev Byte := BitVec 8

/-- R13: a bit is 0 (`false`) or 1 (`true`). -/
abbrev Bit := Bool

end Sys2Proof
end

