-- ==== Sys2Proof/Config.lean ====
section
/-! DEFINITION. The configuration record of 10_state.md R20 (fixed at construction, not state), the constraints R232
puts on it, and the free values. What the spec leaves OPEN is opaque here: nothing can be proved about it beyond
`Config.legal`. -/

namespace Sys2Proof

/-- R10: how a caller brightness outside 0..7 becomes 3 bits; the spec leaves the choice OPEN (90_conflicts C1). -/
inductive BrightnessReduce where
  | mask
  | clamp
deriving DecidableEq, Repr, Inhabited

/-- R20: the configuration record. -/
structure Config where
  /-- R6: the opaque identity of the clock pin. -/
  clkPin : Nat
  /-- R6: the opaque identity of the data pin. -/
  dioPin : Nat
  /-- R7: a non-negative duration, in a unit the spec does not give. -/
  bitDelay : Nat
  /-- R8, R50: the glyph ROM, 256 entries, one per character code. -/
  glyph : Byte → Byte
  /-- R9: the pattern ENCODE_INT puts in slot 0 for a negative value. -/
  minusGlyph : Byte
  /-- R10. -/
  brightnessReduce : BrightnessReduce

/-- R53: the ten digit patterns, GLYPH(0x30 + d) for d in 0..9. -/
def Config.digitPatterns (cfg : Config) : List Byte :=
  (List.range 10).map fun d => cfg.glyph (0x30#8 + BitVec.ofNat 8 d)

/-- R6, R232: one pin cannot carry both signals. -/
def Config.pinsDistinct (cfg : Config) : Bool := cfg.clkPin != cfg.dioPin

/-- R51: GLYPH(c) = GLYPH(c + 0x20) for c in 0x41..0x5A. -/
def Config.glyphFolds (cfg : Config) : Bool :=
  (List.range 26).all fun i => cfg.glyph (0x41#8 + BitVec.ofNat 8 i) == cfg.glyph (0x61#8 + BitVec.ofNat 8 i)

/-- R52: the one character the source names as unsupported, 'z' (0x7A), is blank. -/
def Config.zIsBlank (cfg : Config) : Bool := cfg.glyph 0x7A#8 == 0x00#8

/-- R53: the digit patterns are pairwise distinct and none is 0x00. -/
def Config.digitsDistinct (cfg : Config) : Bool :=
  decide cfg.digitPatterns.Nodup && cfg.digitPatterns.all (· != 0x00#8)

/-- R54: MINUS_GLYPH is not 0x00 and no digit pattern. -/
def Config.minusDistinct (cfg : Config) : Bool :=
  cfg.minusGlyph != 0x00#8 && !cfg.digitPatterns.contains cfg.minusGlyph

/-- R232: the configurations construction accepts. -/
def Config.legal (cfg : Config) : Bool :=
  cfg.pinsDistinct && cfg.glyphFolds && cfg.zIsBlank && cfg.digitsDistinct && cfg.minusDistinct

/-- R56: REF_GLYPH, digits only [general knowledge, not in source]; used by test vectors only. -/
def Config.refGlyph (c : Byte) : Byte :=
  if c = 0x30#8 then 0x3F#8 else if c = 0x31#8 then 0x06#8 else if c = 0x32#8 then 0x5B#8
  else if c = 0x33#8 then 0x4F#8 else if c = 0x34#8 then 0x66#8 else if c = 0x35#8 then 0x6D#8
  else if c = 0x36#8 then 0x7D#8 else if c = 0x37#8 then 0x07#8 else if c = 0x38#8 then 0x7F#8
  else if c = 0x39#8 then 0x6F#8 else 0x00#8

/-- R9, R56: the reference configuration of the spec's test vectors. Its pins, delay and brightness reduction are
arbitrary; no statement about the machine reads it. -/
def Config.reference : Config :=
  { clkPin := 0, dioPin := 1, bitDelay := 0, glyph := Config.refGlyph, minusGlyph := 0x40#8, brightnessReduce := .mask }

/-- A configuration with the proof that construction accepts it (R230, R232). The default values only show that a legal
configuration exists. -/
structure LegalConfig where
  cfg : Config := Config.reference
  isLegal : cfg.legal = true := by decide
deriving Inhabited

/-- R20: the configuration this block instance was constructed with. Any legal one: it has no body. -/
opaque Config.installed : LegalConfig

/-- R20: `cfg`. -/
def Config.cfg : Config := Config.installed.cfg

/-- R101: "Whether a `PinWrite` succeeds is a free input of the micro-step, a draw the model does not constrain." The
n-th draw, true for success. A free value: it has no body (log entry 3). -/
opaque Config.pinAnswer : Nat → Bool

/-- R28: the unspecified value of SR outside SEND_BYTE. A free value (log entry 4). -/
opaque Config.staleSR : Nat → Byte

/-- R28: the unspecified value of BC (0..8) outside SEND_BYTE. A free value (log entry 4). -/
opaque Config.staleBC : Nat → Fin 9

/-- R55: the display segments the reference map names, and the colon. -/
inductive Segment where
  | a
  | b
  | c
  | d
  | e
  | f
  | g
  | decimalPoint
  | colon
deriving DecidableEq, Repr, Inhabited

/-- R55: SEG_MAP, slot and bit to segment, OPEN. No rule reads it for bits other than the colon. -/
opaque Config.segMap : Fin 4 → Fin 8 → Segment

/-- R55: what bit `bit` of slot `slot` lights: the colon for bit 7 of slot 1, otherwise SEG_MAP. -/
def Config.lights (slot : Fin 4) (bit : Fin 8) : Segment :=
  if slot = 1 ∧ bit = 7 then .colon else Config.segMap slot bit

/-- R257, R258: the least time `writes` pin writes take, each level held for BIT_DELAY after its write. -/
def Config.minHold (cfg : Config) (writes : Nat) : Nat := writes * cfg.bitDelay

end Sys2Proof
end

