-- ==== Sys2Proof/Syntax.lean ====
section
/-! DEFINITION. The instructions: one constructor per mnemonic of spec/opcode_table.json. The nine requests of
30_encoding.md R72, the reserved selectors of R73, and the wire bytes of R82 to R85 as rows of their own. -/

namespace Sys2Proof

/-- R72: the 4-bit operation selector `op`. -/
abbrev Selector := BitVec 4

/-- R11, R29: "Exactly 4 byte slots"; slot 0 is the leftmost digit. -/
structure Slots where
  s0 : Byte
  s1 : Byte
  s2 : Byte
  s3 : Byte
deriving DecidableEq, Repr, Inhabited

/-- The slots in transmission order, slot 0 first (R58, R60). -/
def Slots.toList (x : Slots) : List Byte := [x.s0, x.s1, x.s2, x.s3]

/-- The operations a fault or refusal can name (R72, R200): the nine of the selector map. -/
inductive Op where
  | beginTxn
  | sendByte
  | endTxn
  | setDisplay
  | encodeChar
  | encodeInt
  | encodeStr
  | showInt
  | showStr
deriving DecidableEq, Repr, Inhabited

/-- One constructor per mnemonic of the opcode table. -/
inductive Instr where
  /-- R102 BEGIN_TXN. -/
  | beginTxn
  /-- R103 SEND_BYTE b. -/
  | sendByte (b : Byte)
  /-- R104 END_TXN. -/
  | endTxn
  /-- R105 SET_DISPLAY slots, colon, bright3. -/
  | setDisplay (slots : Slots) (colon : Bool) (bright3 : BitVec 3)
  /-- R140 ENCODE_CHAR c. -/
  | encodeChar (c : Byte)
  /-- R142 ENCODE_INT v. -/
  | encodeInt (v : Int)
  /-- R145 ENCODE_STR s. -/
  | encodeStr (str : List Byte)
  /-- R170 SHOW_INT v, colon, bright. -/
  | showInt (v : Int) (colon : Bool) (bright : Int)
  /-- R171 SHOW_STR s, colon, bright. -/
  | showStr (str : List Byte) (colon : Bool) (bright : Int)
  /-- R73 RESERVED: a selector in 0x9..0xF. -/
  | reserved (op : Selector)
  /-- R82 CMD_MODE_AUTOINC: the wire byte 0x40. -/
  | cmdModeAutoinc
  /-- R83 CMD_ADDR_0: the wire byte 0xC0. -/
  | cmdAddr0
  /-- R84 CMD_DISPLAY_ON: the wire byte 0x88 | brightness. -/
  | cmdDisplayOn (brightness : BitVec 3)
  /-- R85 DATA_SEGMENT: a segment byte, bit 7 and bits 6:0 apart as the table has them. -/
  | dataSegment (bit7 : Bool) (segments : BitVec 7)
deriving DecidableEq, Repr, Inhabited

/-- R72's class column: an external request, or an internal sub-step of SET_DISPLAY that a model may accept. -/
inductive OpClass where
  | external
  | internal
  | none
deriving DecidableEq, Repr

/-- R72's class column; a reserved selector has class "none". The wire bytes are sub-steps of SET_DISPLAY, so they are
internal as SEND_BYTE is (log entry 12). -/
def Instr.opClass : Instr → OpClass
  | .beginTxn => .internal
  | .sendByte _ => .internal
  | .endTxn => .internal
  | .setDisplay _ _ _ => .external
  | .encodeChar _ => .external
  | .encodeInt _ => .external
  | .encodeStr _ => .external
  | .showInt _ _ _ => .external
  | .showStr _ _ _ => .external
  | .reserved _ => .none
  | .cmdModeAutoinc => .internal
  | .cmdAddr0 => .internal
  | .cmdDisplayOn _ => .internal
  | .dataSegment _ _ => .internal

/-- The row's name in spec/opcode_table.json. -/
def Instr.mnemonic : Instr → String
  | .beginTxn => "BEGIN_TXN"
  | .sendByte _ => "SEND_BYTE"
  | .endTxn => "END_TXN"
  | .setDisplay _ _ _ => "SET_DISPLAY"
  | .encodeChar _ => "ENCODE_CHAR"
  | .encodeInt _ => "ENCODE_INT"
  | .encodeStr _ => "ENCODE_STR"
  | .showInt _ _ _ => "SHOW_INT"
  | .showStr _ _ _ => "SHOW_STR"
  | .reserved _ => "RESERVED"
  | .cmdModeAutoinc => "CMD_MODE_AUTOINC"
  | .cmdAddr0 => "CMD_ADDR_0"
  | .cmdDisplayOn _ => "CMD_DISPLAY_ON"
  | .dataSegment _ _ => "DATA_SEGMENT"

/-- R77: the operand of the one pseudo-operation, an integer or a string literal. -/
inductive Value where
  | int (v : Int)
  | str (chars : List Byte)
deriving DecidableEq, Repr

end Sys2Proof
end

