-- ==== Sys2Proof/WellFormed.lean ====
section
/-! DEFINITION. Which instruction terms the spec's encodings can spell. Every operand is typed to its exact range
(30_encoding.md R71, R74), so one check is left: a reserved selector lies in 0x9..0xF (R73). -/

namespace Sys2Proof

/-- R73: `reserved op` is a row of the table only for op in 0x9..0xF; 0x0..0x8 are the nine operations. -/
def Instr.wellFormed : Instr → Bool
  | .beginTxn => true
  | .sendByte _ => true
  | .endTxn => true
  | .setDisplay _ _ _ => true
  | .encodeChar _ => true
  | .encodeInt _ => true
  | .encodeStr _ => true
  | .showInt _ _ _ => true
  | .showStr _ _ _ => true
  | .reserved op => decide (9 ≤ op.toNat)
  | .cmdModeAutoinc => true
  | .cmdAddr0 => true
  | .cmdDisplayOn _ => true
  | .dataSegment _ _ => true

end Sys2Proof
end

