-- ==== Sys2Proof/Decode.lean ====
section
/-! DEFINITION. Decoding and encoding. 30_encoding.md R70, R71: a request is a record of a 4-bit selector and typed
operand fields, "not packed into a word". The block's decoder is `decodeRequest`: a step decodes requests and nothing else
(R70). The opcode table has a second level, the wire bytes of R82 to R85, which the block only sends: `decode` and `encode` are
about the words of the whole table, and `decodeTableWord` reads the table's own bit numbering. -/

namespace Sys2Proof

/-- R71: the request record REQ. Each operation reads the fields R72 lists for it; a field it does not list is not
looked at. -/
structure Request where
  op : Selector
  b : Byte := 0
  slots : Slots := ⟨0, 0, 0, 0⟩
  colon : Bool := false
  bright3 : BitVec 3 := 0
  c : Byte := 0
  v : Int := 0
  str : List Byte := []
  bright : Int := 0
deriving DecidableEq, Repr, Inhabited

/-- One word of the opcode table: its three formats REQ, WIRE_CMD and WIRE_DATA. -/
inductive CodeWord where
  | req (r : Request)
  | wireCmd (b : Byte)
  | wireData (b : Byte)
deriving DecidableEq, Repr, Inhabited

/-- The one reason a code word spells no row of the table. -/
inductive DecodeError where
  /-- A command byte other than 0x40, 0xC0 and 0x88..0x8F: R88 gives it no meaning and no operation sends one. -/
  | noCommandRow (b : Byte)
deriving DecidableEq, Repr

/-- R70, R72, R73: the block's decoder, the selector map on a request's record. Total; it never gives a wire row. -/
def decodeRequest (r : Request) : Instr :=
  match r.op.toNat with
  | 0 => .beginTxn
  | 1 => .sendByte r.b
  | 2 => .endTxn
  | 3 => .setDisplay r.slots r.colon r.bright3
  | 4 => .encodeChar r.c
  | 5 => .encodeInt r.v
  | 6 => .encodeStr r.str
  | 7 => .showInt r.v r.colon r.bright
  | 8 => .showStr r.str r.colon r.bright
  | _ => .reserved r.op

/-- R82 to R84, R88: the three command bytes; every other byte in a command position is rejected by name. -/
def decodeCommand (b : Byte) : Except DecodeError Instr :=
  if b = 0x40#8 then .ok .cmdModeAutoinc
  else if b = 0xC0#8 then .ok .cmdAddr0
  else if b &&& 0xF8#8 = 0x88#8 then .ok (.cmdDisplayOn (b.extractLsb' 0 3))
  else .error (.noCommandRow b)

/-- R85: any byte is a segment byte. -/
def decodeData (b : Byte) : Instr := .dataSegment (b.getLsbD 7) (b.extractLsb' 0 7)

/-- Reading a word of the table, of either level (R70). Total; no step uses its wire part. -/
def decode : CodeWord → Except DecodeError Instr
  | .req r => .ok (decodeRequest r)
  | .wireCmd b => decodeCommand b
  | .wireData b => .ok (decodeData b)

/-- R72: an operation's selector. -/
def Op.selector : Op → Selector
  | .beginTxn => 0x0#4
  | .sendByte => 0x1#4
  | .endTxn => 0x2#4
  | .setDisplay => 0x3#4
  | .encodeChar => 0x4#4
  | .encodeInt => 0x5#4
  | .encodeStr => 0x6#4
  | .showInt => 0x7#4
  | .showStr => 0x8#4

/-- The selector a refusal names for an instruction (R200): its own, a reserved one as given, and SEND_BYTE's for a wire
byte (log entry 12). -/
def Instr.selector : Instr → Selector
  | .beginTxn => Op.beginTxn.selector
  | .sendByte _ => Op.sendByte.selector
  | .endTxn => Op.endTxn.selector
  | .setDisplay _ _ _ => Op.setDisplay.selector
  | .encodeChar _ => Op.encodeChar.selector
  | .encodeInt _ => Op.encodeInt.selector
  | .encodeStr _ => Op.encodeStr.selector
  | .showInt _ _ _ => Op.showInt.selector
  | .showStr _ _ _ => Op.showStr.selector
  | .reserved op => op
  | .cmdModeAutoinc => Op.sendByte.selector
  | .cmdAddr0 => Op.sendByte.selector
  | .cmdDisplayOn _ => Op.sendByte.selector
  | .dataSegment _ _ => Op.sendByte.selector

/-- The code word of an instruction: R72's selector with the operand fields it lists, the others zero; for a wire row its
byte (R82 to R85). -/
def encode : Instr → CodeWord
  | .beginTxn => .req { op := Op.beginTxn.selector }
  | .sendByte b => .req { op := Op.sendByte.selector, b := b }
  | .endTxn => .req { op := Op.endTxn.selector }
  | .setDisplay slots colon bright3 =>
    .req { op := Op.setDisplay.selector, slots := slots, colon := colon, bright3 := bright3 }
  | .encodeChar c => .req { op := Op.encodeChar.selector, c := c }
  | .encodeInt v => .req { op := Op.encodeInt.selector, v := v }
  | .encodeStr str => .req { op := Op.encodeStr.selector, str := str }
  | .showInt v colon bright => .req { op := Op.showInt.selector, v := v, colon := colon, bright := bright }
  | .showStr str colon bright => .req { op := Op.showStr.selector, str := str, colon := colon, bright := bright }
  | .reserved op => .req { op := op }
  | .cmdModeAutoinc => .wireCmd 0b01000000#8
  | .cmdAddr0 => .wireCmd 0b11000000#8
  | .cmdDisplayOn brightness => .wireCmd (0b10001#5 ++ brightness)
  | .dataSegment bit7 segments => .wireData (BitVec.ofBool bit7 ++ segments)

/-- The request that has a word's effect performed. A request is itself; a wire byte is no request (R70), and the one request
that sends it as such is SEND_BYTE (R88). -/
def CodeWord.request : CodeWord → Request
  | .req r => r
  | .wireCmd b => { op := Op.sendByte.selector, b := b }
  | .wireData b => { op := Op.sendByte.selector, b := b }

/-- The fields R72 lists for the record's operation, every other field zero: two records that agree on them spell the same
instruction (log entry 17). -/
def Request.listed (r : Request) : Request :=
  match r.op.toNat with
  | 1 => { op := r.op, b := r.b }
  | 3 => { op := r.op, slots := r.slots, colon := r.colon, bright3 := r.bright3 }
  | 4 => { op := r.op, c := r.c }
  | 5 => { op := r.op, v := r.v }
  | 6 => { op := r.op, str := r.str }
  | 7 => { op := r.op, v := r.v, colon := r.colon, bright := r.bright }
  | 8 => { op := r.op, str := r.str, colon := r.colon, bright := r.bright }
  | _ => { op := r.op }

/-- `Request.listed` on code words; a wire byte is all of its word. -/
def CodeWord.listed : CodeWord → CodeWord
  | .req r => .req r.listed
  | .wireCmd b => .wireCmd b
  | .wireData b => .wireData b

/-- The table's format column. -/
inductive Format where
  | REQ
  | WIRE_CMD
  | WIRE_DATA
deriving DecidableEq, Repr

/-- A row of spec/opcode_table.json. -/
structure Row where
  mnemonic : String
  format : Format
  bits : Nat
  mask : Nat
deriving DecidableEq, Repr

/-- spec/opcode_table.json, row by row: mnemonic, format, match, mask. -/
def opcodeTable : List Row :=
  [⟨"BEGIN_TXN", .REQ, 0x0, 0xF⟩, ⟨"SEND_BYTE", .REQ, 0x1, 0xF⟩, ⟨"END_TXN", .REQ, 0x2, 0xF⟩,
   ⟨"SET_DISPLAY", .REQ, 0x3, 0xF⟩, ⟨"ENCODE_CHAR", .REQ, 0x4, 0xF⟩, ⟨"ENCODE_INT", .REQ, 0x5, 0xF⟩,
   ⟨"ENCODE_STR", .REQ, 0x6, 0xF⟩, ⟨"SHOW_INT", .REQ, 0x7, 0xF⟩, ⟨"SHOW_STR", .REQ, 0x8, 0xF⟩,
   ⟨"RESERVED", .REQ, 0x9, 0xF⟩, ⟨"RESERVED", .REQ, 0xA, 0xE⟩, ⟨"RESERVED", .REQ, 0xC, 0xC⟩,
   ⟨"CMD_MODE_AUTOINC", .WIRE_CMD, 0x40, 0xFF⟩, ⟨"CMD_ADDR_0", .WIRE_CMD, 0xC0, 0xFF⟩,
   ⟨"CMD_DISPLAY_ON", .WIRE_CMD, 0x88, 0xF8⟩, ⟨"DATA_SEGMENT", .WIRE_DATA, 0x00, 0x00⟩]

/-- A code word's format and the number the table's match and mask are about: the selector, or the byte. -/
def CodeWord.format : CodeWord → Format
  | .req _ => .REQ
  | .wireCmd _ => .WIRE_CMD
  | .wireData _ => .WIRE_DATA

def CodeWord.number : CodeWord → Nat
  | .req r => r.op.toNat
  | .wireCmd b => b.toNat
  | .wireData b => b.toNat

/-- The row matches the word: same format, and the word's masked bits are the row's. -/
def Row.matches (row : Row) (w : CodeWord) : Bool :=
  decide (row.format = w.format) && decide (Nat.land w.number row.mask = row.bits)

/-- The code word a table number stands for. A number alone does not say its format (log entry 13): below 16 it is a
selector with every operand zero, a command row's byte is that command, any other byte is a segment byte. -/
def tableWord (w : Nat) : Option CodeWord :=
  if w < 16 then some (.req { op := BitVec.ofNat 4 w })
  else if 256 ≤ w then none
  else
    match decodeCommand (BitVec.ofNat 8 w) with
    | .ok _ => some (.wireCmd (BitVec.ofNat 8 w))
    | .error _ => some (.wireData (BitVec.ofNat 8 w))

/-- The instruction the decoder reads from a number in the opcode table's bit numbering. `nbits` is not needed: every
instruction of the table is one selector or one byte, with the operand fields above it zero. -/
def decodeTableWord (_nbits w : Nat) : Option Instr :=
  match tableWord w with
  | none => none
  | some cw =>
    match decode cw with
    | .ok i => some i
    | .error _ => none

/-- R77: ENCODE_VALUE x is ENCODE_INT for an integer literal and ENCODE_STR for a string literal. -/
def encodeValueOp : Value → Instr
  | .int v => .encodeInt v
  | .str chars => .encodeStr chars

end Sys2Proof
end

