-- ==== Sys2Proof/Machine/State.lean ====
section
/-! DEFINITION. The state of the block (10_state.md R22 to R31, 60_exceptions.md R207), the outcomes of a request, the
stop reasons, and the state after construction (R37). Plain data throughout. -/

namespace Sys2Proof.Machine

/-- R15: the two bus lines. -/
inductive Pin where
  | CLK
  | DIO
deriving DecidableEq, Repr, Inhabited

/-- R27, R100: one pin write, a line and the level driven on it. -/
abbrev PinWrite := Pin × Bit

/-- R29: a SegmentFrame; the colon is kept apart from the slots (R75). -/
structure Frame where
  slots : Slots
  colon : Bool
  bright3 : BitVec 3
deriving DecidableEq, Repr, Inhabited

/-- R31: the operation a running sequencer performs, with the operand it works on. SHOW_INT and SHOW_STR carry the frame
their validation built (R170, R171, R174). -/
inductive Job where
  | beginTxn
  | sendByte (b : Byte)
  | endTxn
  | setDisplay (f : Frame)
  | showInt (f : Frame)
  | showStr (f : Frame)
deriving DecidableEq, Repr, Inhabited

/-- R28: the working registers of SEND_BYTE, the shift register SR and the bit counter BC (0..8). -/
structure Work where
  sr : Byte
  bc : Fin 9
deriving DecidableEq, Repr, Inhabited

/-- R31: `idle`, or `running(op, k)` with k the index of the next micro-step; "the working values of rules R28 and R29 live
inside `seq`". -/
inductive Seq where
  | idle
  | running (job : Job) (k : Nat) (work : Work)
deriving DecidableEq, Repr, Inhabited

/-- R200, R204 to R206: the two fault causes with what each records. -/
inductive FaultCause where
  | pinWriteFailure (pin : Pin) (level : Bit) (op : Op) (k : Nat)
  | protocolMisuse (op : Op)
deriving DecidableEq, Repr

/-- R202: the two causes of a RangeError. -/
inductive RangeError where
  | intRange (v : Int)
  | strLength (n : Nat)
deriving DecidableEq, Repr

/-- R207: why a request is refused. (BadConfig refuses a construction, not a request: Machine/Construct.lean.) -/
inductive RefusalReason where
  | reservedOp (op : Selector)
  | concurrentRequest (op : Selector)
  /-- Not of R207: a wire row of the opcode table where the block never sends its byte (R69, R85, R88; log entry 12). -/
  | misplacedByte (b : Byte)
deriving DecidableEq, Repr

/-- R36: what an operation returns. -/
inductive Result where
  | none
  | byte (b : Byte)
  | slots (x : Slots)
deriving DecidableEq, Repr

/-- R16, R200: the outcome delivered to the caller. -/
inductive Reply where
  | ok (r : Result)
  | err (e : RangeError)
  | faulted (c : FaultCause)
  | refused (r : RefusalReason)
deriving DecidableEq, Repr

/-- A request a caller will issue. `early = none`: the caller waits for the block to be idle, as R221 demands.
`early = some n`: it issues the request once the running operation is at position n or later, or the block is idle; R218
refuses it if an operation is running. The model's own input, not the spec's. -/
structure Call where
  early : Option Nat
  request : Request
deriving DecidableEq, Repr, Inhabited

structure State where
  /-- R22: the level last driven on the clock line; `none` is unknown. -/
  clk : Option Bit
  /-- R23: the level last driven on the data line; `none` is unknown. -/
  dio : Option Bit
  /-- R25: a transaction is open. -/
  txn : Bool
  /-- R26: the sticky fault record. -/
  fault : Option FaultCause
  /-- R27: every completed pin write, oldest first. -/
  trace : List PinWrite
  /-- R31: the sequencer, with SR, BC and the frame inside (R28, R29). -/
  seq : Seq
  /-- R207, D26: the global refused mark, which no step clears. -/
  refused : Bool
  /-- The outcomes delivered to callers so far, oldest first (R36, R200). The caller's side: no rule reads it. The model's
  own field. -/
  replies : List Reply
  /-- The requests callers have yet to issue, in order. An input; the model's own field. -/
  calls : List Call
  /-- The platform's answers to the coming pin writes, as far as the state says them (R101, R221). An input; the model's
  own field. -/
  answers : List Bool
  /-- Counts the free values used (log entries 3, 4). The model's own field. -/
  draws : Nat
deriving DecidableEq, Repr

/-- Why a step stops with a fault. -/
inductive Fault where
  /-- Raised by `step` and by every meaning when `st.fault` holds `c`: R208 "When `st.fault ≠ none`, no request has a
  step." Safe: the spec gives no step. -/
  | blockFaulted (c : FaultCause)
deriving DecidableEq, Repr

/-- Why a step is refused. Every request record decodes to an instruction (R72, R73), so nothing raises one. -/
inductive Refusal where
  /-- Raised by `exec` for an instruction without a meaning; no arm raises it. Safe. -/
  | notModelled (mnemonic : String)
deriving DecidableEq, Repr

/-- R37, R230, R231: the state construction gives; both line levels unknown, nothing traced. The last three fields are the
model's inputs and its counter (log entries 3, 5, 7). -/
def State.reset : State :=
  { clk := none
    dio := none
    txn := false
    fault := none
    trace := []
    seq := .idle
    refused := false
    replies := []
    calls := []
    answers := []
    draws := 0 }

end Sys2Proof.Machine
end

