-- ==== Sys2Proof/Machine/Ops.lean ====
section
/-! DEFINITION. The named operations over the state: the lines and the trace (40_bus_driver.md R100), the platform's
answer to a pin write (R101), delivering an outcome, entering the faulted state (60_exceptions.md R204) and refusing a
request (R207). The spec gives the block no data memory (20_memory.md R57) and no return from a fault (R211). -/

namespace Sys2Proof.Machine

/-- The level of a line (R22, R23). -/
def State.line (s : State) : Pin → Option Bit
  | .CLK => s.clk
  | .DIO => s.dio

/-- Set the record of a line's level (R100: some v; R101: none). -/
def State.setLine (s : State) (p : Pin) (l : Option Bit) : State :=
  match p with
  | .CLK => { s with clk := l }
  | .DIO => { s with dio := l }

/-- R27: append a completed pin write. -/
def State.record (s : State) (w : PinWrite) : State := { s with trace := s.trace ++ [w] }

def State.setSeq (s : State) (q : Seq) : State := { s with seq := q }

def State.setCalls (s : State) (cs : List Call) : State := { s with calls := cs }

/-- Deliver an outcome to the caller (R200, R210). -/
def State.deliver (s : State) (r : Reply) : State := { s with replies := s.replies ++ [r] }

/-- One more free value has been used. -/
def State.drawn (s : State) : State := { s with draws := s.draws + 1 }

/-- R101: whether the next pin write succeeds: the platform's next answer, and past the answers the state holds a value
nothing constrains. -/
def State.nextAnswer (s : State) : Bool :=
  match s.answers with
  | a :: _ => a
  | [] => Config.pinAnswer s.draws

/-- The state once that answer has been given. -/
def State.answered (s : State) : State :=
  match s.answers with
  | _ :: rest => { s with answers := rest }
  | [] => s.drawn

/-- R100: a pin write that succeeds sets the line's level and is traced. -/
def State.drive (s : State) (w : PinWrite) : State := (s.setLine w.1 (some w.2)).record w

/-- R204, entering the faulted state: `st.fault <- some cause`, `st.seq <- idle`, and the cause is delivered. The spec has no
handler address and no saved state (R210), so nothing else changes. -/
def State.raiseFault (s : State) (c : FaultCause) : State :=
  { s with fault := some c, seq := .idle, replies := s.replies ++ [.faulted c] }

/-- R207: a refused request changes no field of the block's; it sets the refused mark, and the reason is delivered. -/
def State.refuse (s : State) (r : RefusalReason) : State :=
  { s with refused := true, replies := s.replies ++ [.refused r] }

/-- R100: the operation's last write has completed: `seq <- idle`, and Ok is delivered with no result (R36). -/
def State.complete (s : State) : State := (s.setSeq .idle).deliver (.ok .none)

/-- R28: the working registers' unspecified value, as free values. -/
def State.staleWork (s : State) : Work := ⟨Config.staleSR s.draws, Config.staleBC s.draws⟩

/-- R31: an accepted bus operation stands at its micro-step 0; SR and BC are unspecified until SEND_BYTE loads them. -/
def State.start (s : State) (job : Job) : State := (s.setSeq (.running job 0 s.staleWork)).drawn

/-- R209 items 1 and 2, common to every request: no step in the faulted state, and a request while an operation is running
is refused as ConcurrentRequest, naming its selector. Otherwise `body` says what the request does. -/
def accept (sel : Selector) (s : State) (body : Host.Outcome State Fault Refusal) : Host.Outcome State Fault Refusal :=
  match s.fault with
  | some c => .fault (.blockFaulted c)
  | none =>
    match s.seq with
    | .running _ _ _ => .next (s.refuse (.concurrentRequest sel))
    | .idle => body

end Sys2Proof.Machine
end

