-- ==== Sys2Proof/Machine/Flags.lean ====
section
/-! DEFINITION. The block's two flags (10_state.md R32): `st.txn`, written by BEGIN_TXN and END_TXN only, and `st.fault`,
written by a fault only. They gate operations and are never read as data. -/

namespace Sys2Proof.Machine

/-- R102 (completion): `st.txn <- true`. -/
def State.openTxn (s : State) : State := { s with txn := true }

/-- R104 (completion): `st.txn <- false`. -/
def State.closeTxn (s : State) : State := { s with txn := false }

/-- R206, R209 item 5: the precondition on `st.txn`; where it fails the operation performs no write and faults with
ProtocolMisuse, otherwise it goes on to `t`. -/
def requireTxn (op : Op) (needed : Bool) (s : State) (t : State) : Host.Outcome State Fault Refusal :=
  if s.txn = needed then .next t else .next (s.raiseFault (.protocolMisuse op))

end Sys2Proof.Machine
end

