-- ==== Sys2Proof/Machine/Operands.lean ====
section
/-! DEFINITION. How operands become wire bytes and slots: the frame's bytes (30_encoding.md R86, R87), the case fold and
digits (41_segment_encoder.md R141, R143), the brightness reduction (42_display_request.md R172). -/

namespace Sys2Proof.Machine

/-- R82: the mode-set command byte. -/
def modeByte : Byte := 0x40#8

/-- R83: the address-set command byte. -/
def addrByte : Byte := 0xC0#8

/-- R86, R107: the display-control byte 0x88 | (bright3 & 0x07). -/
def ctrlByte (bright3 : BitVec 3) : Byte := 0x88#8 ||| (bright3.zeroExtend 8 &&& 0x07#8)

/-- R87: slots[1] | (colon ? 0x80 : 0x00). -/
def colonByte (slots : Slots) (colon : Bool) : Byte := slots.s1 ||| (if colon then 0x80#8 else 0x00#8)

/-- R106: the bytes of the data transaction. -/
def dataBytes (slots : Slots) (colon : Bool) : List Byte :=
  [addrByte, slots.s0, colonByte slots colon, slots.s2, slots.s3]

/-- R85: a segment byte from the table's two fields. -/
def segmentByte (bit7 : Bool) (segments : BitVec 7) : Byte :=
  (if bit7 then 0x80#8 else 0x00#8) ||| segments.zeroExtend 8

/-- R141: 'A'..'Z' fold to 'a'..'z', every other code is left. -/
def fold (c : Byte) : Byte := if 0x41#8 ≤ c ∧ c ≤ 0x5A#8 then c + 0x20#8 else c

/-- R50: GlyphRead(c) = cfg.GLYPH(c). -/
def glyphRead (cfg : Config) (c : Byte) : Byte := cfg.glyph c

/-- R142, R143: DigitGlyph(d) = GlyphRead(0x30 + d), d in 0..9. -/
def digitGlyph (cfg : Config) (d : Nat) : Byte := glyphRead cfg (0x30#8 + BitVec.ofNat 8 d)

/-- R140: GlyphRead(Fold(c)). -/
def charPattern (cfg : Config) (c : Byte) : Byte := glyphRead cfg (fold c)

/-- R142: digits right to left, zero-padded; the sign overwrites slot 0. `|v| ≥ 10000` is a range error. -/
def intSlots (cfg : Config) (v : Int) : Except RangeError Slots :=
  let m := v.natAbs
  if 10000 ≤ m then .error (.intRange v)
  else
    .ok
      { s0 := if v < 0 then cfg.minusGlyph else digitGlyph cfg (m / 1000 % 10)
        s1 := digitGlyph cfg (m / 100 % 10)
        s2 := digitGlyph cfg (m / 10 % 10)
        s3 := digitGlyph cfg (m % 10) }

/-- R145: slots[i] of a string, the blank pattern past its end. -/
def strSlot (cfg : Config) (str : List Byte) (i : Nat) : Byte :=
  match str[i]? with
  | some c => charPattern cfg c
  | none => 0x00#8

/-- R145: left to right, blank-padded. A string longer than 4 is a range error. -/
def strSlots (cfg : Config) (str : List Byte) : Except RangeError Slots :=
  if 4 < str.length then .error (.strLength str.length)
  else .ok ⟨strSlot cfg str 0, strSlot cfg str 1, strSlot cfg str 2, strSlot cfg str 3⟩

/-- R172: mask is the Euclidean remainder mod 8, clamp is min(max(b, 0), 7). -/
def reduce (mode : BrightnessReduce) (bright : Int) : BitVec 3 :=
  match mode with
  | .mask => BitVec.ofNat 3 (bright % 8).toNat
  | .clamp => BitVec.ofNat 3 (min (max bright 0) 7).toNat

/-- R53: the partial inverse INV over the digit patterns and MINUS_GLYPH, giving the character code. -/
def inverseGlyph (cfg : Config) (pattern : Byte) : Option Byte :=
  match (List.range 10).find? (fun d => digitGlyph cfg d == pattern) with
  | some d => some (0x30#8 + BitVec.ofNat 8 d)
  | none => if pattern = cfg.minusGlyph then some 0x2D#8 else none

end Sys2Proof.Machine
end

