-- ==== Sys2Proof/Machine/Waveform.lean ====
section
/-! DEFINITION. What a bus operation drives: the waveforms of 40_bus_driver.md R102 to R105 as lists of pin writes, and the
micro-program each operation performs, in which SEND_BYTE's data bits come from the shift register as R103's pseudocode
has them. -/

namespace Sys2Proof.Machine

/-- R102: WBEGIN = [D1, C1, D0, C0]. -/
def wBegin : List PinWrite := [(.DIO, true), (.CLK, true), (.DIO, false), (.CLK, false)]

/-- R103: the three writes of a data bit. -/
def wBit (v : Bit) : List PinWrite := [(.CLK, false), (.DIO, v), (.CLK, true)]

/-- R103: WSEND(b), bit 0 first, then the release pulse. -/
def wSend (b : Byte) : List PinWrite :=
  wBit (b.getLsbD 0) ++ wBit (b.getLsbD 1) ++ wBit (b.getLsbD 2) ++ wBit (b.getLsbD 3) ++ wBit (b.getLsbD 4)
    ++ wBit (b.getLsbD 5) ++ wBit (b.getLsbD 6) ++ wBit (b.getLsbD 7) ++ wBit true

/-- R104: WEND = [C0, D0, C1, D1]. -/
def wEnd : List PinWrite := [(.CLK, false), (.DIO, false), (.CLK, true), (.DIO, true)]

/-- R105: WTXN(bs). -/
def wTxn (bs : List Byte) : List PinWrite := wBegin ++ bs.flatMap wSend ++ wEnd

/-- R105: WSET. -/
def wSet (f : Frame) : List PinWrite :=
  wTxn [modeByte] ++ wTxn (dataBytes f.slots f.colon) ++ wTxn [ctrlByte f.bright3]

/-- R105: the sub-operations a bus operation is made of. -/
inductive SubOp where
  | opening
  | send (b : Byte)
  | closing
deriving DecidableEq, Repr

/-- A sub-operation's waveform (R102, R103, R104). -/
def SubOp.waveform : SubOp → List PinWrite
  | .opening => wBegin
  | .send b => wSend b
  | .closing => wEnd

/-- One transaction's sub-operations. -/
def txnOps (bs : List Byte) : List SubOp := .opening :: bs.map .send ++ [.closing]

/-- R105's pseudocode. -/
def frameOps (f : Frame) : List SubOp :=
  txnOps [modeByte] ++ txnOps (dataBytes f.slots f.colon) ++ txnOps [ctrlByte f.bright3]

def Job.subOps : Job → List SubOp
  | .beginTxn => [.opening]
  | .sendByte b => [.send b]
  | .endTxn => [.closing]
  | .setDisplay f => frameOps f
  | .showInt f => frameOps f
  | .showStr f => frameOps f

/-- The operation a job's faults name (R205: the request's operation). -/
def Job.op : Job → Op
  | .beginTxn => .beginTxn
  | .sendByte _ => .sendByte
  | .endTxn => .endTxn
  | .setDisplay _ => .setDisplay
  | .showInt _ => .showInt
  | .showStr _ => .showStr

/-- The waveform of a job as its rule states it (R102 to R105, R170, R171). -/
def Job.waveform : Job → List PinWrite
  | .beginTxn => wBegin
  | .sendByte b => wSend b
  | .endTxn => wEnd
  | .setDisplay f => wSet f
  | .showInt f => wSet f
  | .showStr f => wSet f

/-- R103: where a micro-step's level comes from: a constant, or SR[0]. -/
inductive Level where
  | const (v : Bit)
  | sr0
deriving DecidableEq, Repr

/-- What a completed micro-step does besides the write: R103's shift and the end of SEND_BYTE, R102's and R104's completion
writes to `st.txn`. -/
inductive After where
  | nothing
  | shift
  | sendDone
  | openTxn
  | closeTxn
deriving DecidableEq, Repr

/-- One micro-step of an operation. `load = some b` is R103's "SR <- b; BC <- 0" before the write. -/
structure Micro where
  pin : Pin
  level : Level
  load : Option Byte := none
  after : After := .nothing
deriving DecidableEq, Repr

/-- R102. -/
def microBegin : List Micro :=
  [{ pin := .DIO, level := .const true }, { pin := .CLK, level := .const true },
   { pin := .DIO, level := .const false }, { pin := .CLK, level := .const false, after := .openTxn }]

/-- R103, one turn of the loop: PinWrite(CLK, 0); PinWrite(DIO, SR[0]); PinWrite(CLK, 1); SR <- SR >> 1; BC <- BC + 1. -/
def microBit (load : Option Byte) : List Micro :=
  [{ pin := .CLK, level := .const false, load := load }, { pin := .DIO, level := .sr0 },
   { pin := .CLK, level := .const true, after := .shift }]

/-- R103: after the eighth bit, PinWrite(CLK, 0); PinWrite(DIO, 1); PinWrite(CLK, 1). -/
def microRelease : List Micro :=
  [{ pin := .CLK, level := .const false }, { pin := .DIO, level := .const true },
   { pin := .CLK, level := .const true, after := .sendDone }]

/-- R103. -/
def microSend (b : Byte) : List Micro :=
  microBit (some b) ++ microBit none ++ microBit none ++ microBit none ++ microBit none ++ microBit none
    ++ microBit none ++ microBit none ++ microRelease

/-- R104. -/
def microEnd : List Micro :=
  [{ pin := .CLK, level := .const false }, { pin := .DIO, level := .const false },
   { pin := .CLK, level := .const true }, { pin := .DIO, level := .const true, after := .closeTxn }]

def SubOp.program : SubOp → List Micro
  | .opening => microBegin
  | .send b => microSend b
  | .closing => microEnd

/-- R105: "Each sub-operation follows its own rule". -/
def Job.program (job : Job) : List Micro := job.subOps.flatMap SubOp.program

/-- R103: SR <- b; BC <- 0. -/
def Micro.loaded (m : Micro) (w : Work) : Work :=
  match m.load with
  | some b => ⟨b, 0⟩
  | none => w

/-- The level a micro-step drives. -/
def Micro.levelOf (m : Micro) (w : Work) : Bit :=
  match m.level with
  | .const v => v
  | .sr0 => w.sr.getLsbD 0

/-- R103: SR <- SR >> 1; BC <- BC + 1. -/
def Work.shifted (w : Work) : Work := ⟨w.sr >>> 1, w.bc + 1⟩

/-- R108: pin writes on one line. -/
def countPin (p : Pin) (ws : List PinWrite) : Nat := ws.countP fun w => decide (w.1 = p)

end Sys2Proof.Machine
end

