-- ==== Sys2Proof/Machine/Sequencer.lean ====
section
/-! DEFINITION. The micro-step (40_bus_driver.md R100, R101): one pin write of the running operation. -/

namespace Sys2Proof.Machine

/-- What a completed write does to the flags and to the count of free values. -/
def State.afterWrite (s : State) : After → State
  | .nothing => s
  | .shift => s
  | .sendDone => s.drawn
  | .openTxn => s.openTxn
  | .closeTxn => s.closeTxn

/-- What it leaves in the working registers: shifted by R103's loop, unspecified once SEND_BYTE is over (R28). -/
def State.workAfter (s : State) (w : Work) : After → Work
  | .nothing => w
  | .shift => w.shifted
  | .sendDone => s.staleWork
  | .openTxn => w
  | .closeTxn => w

/-- R100: `running(op, k + 1)`, or completion "when k + 1 = len(W)". -/
def State.advance (s : State) (job : Job) (k : Nat) (w : Work) : State :=
  if k + 1 < job.program.length then s.setSeq (.running job (k + 1) w) else s.complete

/-- R100, R101: perform micro-step `m`, the k-th of `job`, with working registers `w`. -/
def State.perform (s : State) (job : Job) (k : Nat) (w : Work) (m : Micro) : State :=
  let w₁ := m.loaded w
  let v := m.levelOf w₁
  if s.nextAnswer then
    let s₁ := s.answered.drive (m.pin, v)
    (s₁.afterWrite m.after).advance job k (s₁.workAfter w₁ m.after)
  else (s.answered.setLine m.pin none).raiseFault (.pinWriteFailure m.pin v job.op k)

/-- R100: the next micro-step of the running operation. Between requests the block drives nothing (R220). A position past the
waveform is not reached; R31 completes the operation there. -/
def microStep (s : State) : State :=
  match s.seq with
  | .idle => s
  | .running job k w =>
    match job.program[k]? with
    | none => s.complete
    | some m => s.perform job k w m

/-- R100, R114: accept a bus operation and perform its micro-step 0. -/
def State.launch (s : State) (job : Job) : State := microStep (s.start job)

end Sys2Proof.Machine
end

