-- ==== Sys2Proof/Machine/BusDriver.lean ====
section
/-! DEFINITION. The Bus Driver's operations (40_bus_driver.md section 2). A meaning accepts the request and performs the
first pin write of its waveform; the step performs the others, one a step. -/

namespace Sys2Proof.Machine

/-- R102: faults unless `st.txn = false`; drives WBEGIN. -/
def execBeginTxn (s : State) : Host.Outcome State Fault Refusal :=
  accept Op.beginTxn.selector s (requireTxn .beginTxn false s (s.launch .beginTxn))

/-- R103: faults unless `st.txn = true`; drives WSEND(b). -/
def execSendByte (b : Byte) (s : State) : Host.Outcome State Fault Refusal :=
  accept Op.sendByte.selector s (requireTxn .sendByte true s (s.launch (.sendByte b)))

/-- R104: faults unless `st.txn = true`; drives WEND. -/
def execEndTxn (s : State) : Host.Outcome State Fault Refusal :=
  accept Op.endTxn.selector s (requireTxn .endTxn true s (s.launch .endTxn))

/-- R105: faults unless `st.txn = false`; drives WSET. -/
def execSetDisplay (slots : Slots) (colon : Bool) (bright3 : BitVec 3) (s : State) :
    Host.Outcome State Fault Refusal :=
  accept Op.setDisplay.selector s (requireTxn .setDisplay false s (s.launch (.setDisplay ⟨slots, colon, bright3⟩)))

end Sys2Proof.Machine
end

