-- ==== Sys2Proof/Machine/DisplayRequest.lean ====
section
/-! DEFINITION. The display requests (42_display_request.md). The meaning is the validation step, with no pin write
(R173, R255); the 213 writes follow, one a step. -/

namespace Sys2Proof.Machine

/-- R170, R171: a range error comes first and changes nothing; then the precondition on `st.txn`; then the frame is built,
its brightness reduced (R172), and the operation stands at micro-step 0. -/
def showSlots (op : Op) (job : Frame → Job) (slots : Except RangeError Slots) (colon : Bool) (bright : Int) (s : State) :
    Host.Outcome State Fault Refusal :=
  match slots with
  | .error e => .next (s.deliver (.err e))
  | .ok x => requireTxn op false s (s.start (job ⟨x, colon, reduce Config.cfg.brightnessReduce bright⟩))

/-- R170. -/
def execShowInt (v : Int) (colon : Bool) (bright : Int) (s : State) : Host.Outcome State Fault Refusal :=
  accept Op.showInt.selector s (showSlots .showInt .showInt (intSlots Config.cfg v) colon bright s)

/-- R171. -/
def execShowStr (str : List Byte) (colon : Bool) (bright : Int) (s : State) : Host.Outcome State Fault Refusal :=
  accept Op.showStr.selector s (showSlots .showStr .showStr (strSlots Config.cfg str) colon bright s)

end Sys2Proof.Machine
end

