-- ==== Sys2Proof/Machine/Reserved.lean ====
section
/-! DEFINITION. The reserved selectors (30_encoding.md R73, 60_exceptions.md R207). -/

namespace Sys2Proof.Machine

/-- R73, R207: Refused(ReservedOp); no field of the block changes, the refused mark is set. -/
def execReserved (op : Selector) (s : State) : Host.Outcome State Fault Refusal :=
  accept op s (.next (s.refuse (.reservedOp op)))

end Sys2Proof.Machine
end

