-- ==== Sys2Proof/Machine/SegmentEncoder.lean ====
section
/-! DEFINITION. The Segment Encoder's operations (41_segment_encoder.md): each one atomic step (R146) that reads the
configuration and its operands and writes no field of the block's state (R39). -/

namespace Sys2Proof.Machine

/-- R200: the reply of a slots computation. -/
def slotsReply : Except RangeError Slots → Reply
  | .ok x => .ok (.slots x)
  | .error e => .err e

/-- R140: returns GlyphRead(Fold(c)); never an error. -/
def execEncodeChar (c : Byte) (s : State) : Host.Outcome State Fault Refusal :=
  accept Op.encodeChar.selector s (.next (s.deliver (.ok (.byte (charPattern Config.cfg c)))))

/-- R142: returns the four slots, or RangeError(IntRange(v)). -/
def execEncodeInt (v : Int) (s : State) : Host.Outcome State Fault Refusal :=
  accept Op.encodeInt.selector s (.next (s.deliver (slotsReply (intSlots Config.cfg v))))

/-- R145: returns the four slots, or RangeError(StrLength(len(s))). -/
def execEncodeStr (str : List Byte) (s : State) : Host.Outcome State Fault Refusal :=
  accept Op.encodeStr.selector s (.next (s.deliver (slotsReply (strSlots Config.cfg str))))

end Sys2Proof.Machine
end

