-- ==== Sys2Proof/Machine/Listener.lean ====
section
/-! DEFINITION. The reference listener (30_encoding.md R90 to R92): it reads a trace back into transactions. It is not part
of the block; claims about what a display shows are claims about it (60_exceptions.md R217). -/

namespace Sys2Proof.Machine

/-- R91: a closed transaction: its bytes, their release samples, and the samples discarded at the stop. -/
structure Heard where
  bytes : List Byte
  rels : List Bit
  trailing : Nat
deriving DecidableEq, Repr

/-- R91: an open transaction: complete bytes, their release samples, and the samples of the incomplete group. -/
structure Hearing where
  bytes : List Byte
  rels : List Bit
  samples : List Bit
deriving DecidableEq, Repr

/-- R90: the listener's own record of the lines, and what it has heard. The two marks record R92's violations of
framing. -/
structure Listener where
  lclk : Option Bit := none
  ldio : Option Bit := none
  hearing : Option Hearing := none
  heard : List Heard := []
  nestedStart : Bool := false
  strayStop : Bool := false
deriving DecidableEq, Repr

/-- R91: byte = Σ sample[i+1] << i; the first sample is bit 0. -/
def byteOf (samples : List Bit) : Byte := BitVec.ofNat 8 (samples.foldr (fun x n => x.toNat + 2 * n) 0)

/-- R91: one more sample; the ninth closes a group of eight data bits and its release. -/
def Hearing.sample (h : Hearing) (v : Bit) : Hearing :=
  if h.samples.length = 8 then ⟨h.bytes ++ [byteOf h.samples], h.rels ++ [v], []⟩
  else { h with samples := h.samples ++ [v] }

/-- R91: a rising clock samples the data line inside a transaction and is ignored outside one. A level not yet known is
sampled as 0 (log entry 14). -/
def Listener.rise (l : Listener) : Listener :=
  match l.hearing with
  | none => l
  | some h => { l with hearing := some (h.sample (l.ldio.getD false)) }

/-- R90, R92: a start opens a transaction; inside one it is a violation. -/
def Listener.startEdge (l : Listener) : Listener :=
  { l with hearing := some ⟨[], [], []⟩, nestedStart := l.nestedStart || l.hearing.isSome }

/-- R91, R92: a stop closes the transaction, discarding an incomplete group; outside one it is a violation. -/
def Listener.stopEdge (l : Listener) : Listener :=
  match l.hearing with
  | none => { l with strayStop := true }
  | some h => { l with hearing := none, heard := l.heard ++ [⟨h.bytes, h.rels, h.samples.length⟩] }

/-- R90: the edge a write makes, if any. -/
def Listener.edge (l : Listener) : PinWrite → Listener
  | (.CLK, v) => if l.lclk = some false ∧ v = true then l.rise else l
  | (.DIO, v) =>
    if l.lclk = some true ∧ l.ldio = some true ∧ v = false then l.startEdge
    else if l.lclk = some true ∧ l.ldio = some false ∧ v = true then l.stopEdge
    else l

/-- R90: take one write of the trace: the edge it makes, then the new level. -/
def Listener.hear (l : Listener) (w : PinWrite) : Listener :=
  match w with
  | (.CLK, v) => { l.edge (.CLK, v) with lclk := some v }
  | (.DIO, v) => { l.edge (.DIO, v) with ldio := some v }

/-- R90: replay a trace in order. -/
def Listener.hearAll (l : Listener) (ws : List PinWrite) : Listener := ws.foldl Listener.hear l

def listen (trace : List PinWrite) : Listener := Listener.hearAll {} trace

/-- R92: the result, a list of transactions, each a list of bytes. -/
def Listener.transactions (l : Listener) : List (List Byte) := l.heard.map Heard.bytes

/-- R92, for one closed transaction: every release sample is 1, and at most one sample is discarded at the stop. -/
def Heard.wellFramed (h : Heard) : Bool := h.rels.all id && decide (h.trailing ≤ 1)

/-- R92. The last item, no data edge while the clock is high other than a start or a stop, holds of every trace by R90:
each such edge is one of the two. -/
def Listener.wellFramed (l : Listener) : Bool :=
  !l.nestedStart && !l.strayStop && l.heard.all Heard.wellFramed
    && (match l.hearing with
        | none => true
        | some h => h.rels.all id)

/-- R217: what the source intends the peripheral to do with an update's three transactions: the four patterns of digit
positions 0..3, whether bit 7 of position 1 lights the colon, and the brightness. A reading of the listener's result, not a
claim about the peripheral. -/
structure Shown where
  digits : Slots
  colonLit : Bool
  brightness : BitVec 3
deriving DecidableEq, Repr

/-- R217: the reading of one update's three transactions. -/
def intended : List (List Byte) → Option Shown
  | [[m], [a, d0, d1, d2, d3], [c]] =>
    if m = 0x40#8 ∧ a = 0xC0#8 ∧ c &&& 0xF8#8 = 0x88#8 then
      some ⟨⟨d0, d1, d2, d3⟩, d1.getLsbD 7, c.extractLsb' 0 3⟩
    else none
  | _ => none

end Sys2Proof.Machine
end

