-- ==== Sys2Proof/Machine/WireBytes.lean ====
section
/-! DEFINITION. The opcode table's wire rows (30_encoding.md R82 to R85). They are bytes SET_DISPLAY sends, not requests of
R72, and no step decodes one (R70). The effect the spec gives such a byte is its transmission inside an open transaction, by
R103, in the place R81 to R85 give it; anywhere else the block never sends it, unless a caller sends it by SEND_BYTE (R69, R88).
That is the row's meaning here (log entry 12). -/

namespace Sys2Proof.Machine

/-- The complete bytes of the transaction the trace has open, if it has one (R91). -/
def State.openBytes (s : State) : Option (List Byte) := (listen s.trace).hearing.map Hearing.bytes

/-- R81: a command byte comes first in its transaction. -/
def commandPlace : Option (List Byte) → Bool
  | some [] => true
  | some (_ :: _) => false
  | none => false

/-- R81, R85: segment bytes are bytes 2 to 5 of a transaction that began with 0xC0. -/
def dataPlace : Option (List Byte) → Bool
  | some (b :: rest) => decide (b = addrByte ∧ rest.length < 4)
  | some [] => false
  | none => false

/-- R103 for a byte the block itself chose, in its place; out of its place it is not sent, and nothing of the block changes. -/
def sendWireByte (inPlace : Bool) (b : Byte) (s : State) : Host.Outcome State Fault Refusal :=
  accept Op.sendByte.selector s
    (requireTxn .sendByte true s (if inPlace then s.launch (.sendByte b) else s.refuse (.misplacedByte b)))

/-- R82: the mode-set byte 0x40. -/
def execCmdModeAutoinc (s : State) : Host.Outcome State Fault Refusal :=
  sendWireByte (commandPlace s.openBytes) modeByte s

/-- R83: the address-set byte 0xC0. -/
def execCmdAddr0 (s : State) : Host.Outcome State Fault Refusal :=
  sendWireByte (commandPlace s.openBytes) addrByte s

/-- R84, R86: the display-control byte 0x88 | brightness. -/
def execCmdDisplayOn (brightness : BitVec 3) (s : State) : Host.Outcome State Fault Refusal :=
  sendWireByte (commandPlace s.openBytes) (ctrlByte brightness) s

/-- R85: a segment byte. -/
def execDataSegment (bit7 : Bool) (segments : BitVec 7) (s : State) : Host.Outcome State Fault Refusal :=
  sendWireByte (dataPlace s.openBytes) (segmentByte bit7 segments) s

end Sys2Proof.Machine
end

