-- ==== Sys2Proof/Machine/Dispatch.lean ====
section
/-! DEFINITION. exec: one arm per constructor of Instr. -/

namespace Sys2Proof.Machine

def exec (i : Instr) (s : State) : Host.Outcome State Fault Refusal :=
  match i with
  | .beginTxn => Sys2Proof.Machine.execBeginTxn s
  | .sendByte b => Sys2Proof.Machine.execSendByte b s
  | .endTxn => Sys2Proof.Machine.execEndTxn s
  | .setDisplay slots colon bright3 => Sys2Proof.Machine.execSetDisplay slots colon bright3 s
  | .encodeChar c => Sys2Proof.Machine.execEncodeChar c s
  | .encodeInt v => Sys2Proof.Machine.execEncodeInt v s
  | .encodeStr str => Sys2Proof.Machine.execEncodeStr str s
  | .showInt v colon bright => Sys2Proof.Machine.execShowInt v colon bright s
  | .showStr str colon bright => Sys2Proof.Machine.execShowStr str colon bright s
  | .reserved op => Sys2Proof.Machine.execReserved op s
  | .cmdModeAutoinc => Sys2Proof.Machine.execCmdModeAutoinc s
  | .cmdAddr0 => Sys2Proof.Machine.execCmdAddr0 s
  | .cmdDisplayOn brightness => Sys2Proof.Machine.execCmdDisplayOn brightness s
  | .dataSegment bit7 segments => Sys2Proof.Machine.execDataSegment bit7 segments s

end Sys2Proof.Machine
end

