-- ==== Sys2Proof/Machine/Fetch.lean ====
section
/-! DEFINITION. How requests reach the block (60_exceptions.md R218, R221): the callers' list of calls stands for the
outside, and the block takes the next one when it is due. The block fetches no instructions (10_state.md R31). -/

namespace Sys2Proof.Machine

/-- A call is due when the block is idle, or, for a caller that does not wait, once the running operation has reached the
position the call names. -/
def Call.due (c : Call) : Seq → Bool
  | .idle => true
  | .running _ k _ =>
    match c.early with
    | none => false
    | some n => decide (n ≤ k)

/-- The next call, if it is due, and the state without it. -/
def State.takeCall (s : State) : Option (Request × State) :=
  match s.calls with
  | [] => none
  | c :: rest => if c.due s.seq then some (c.request, { s with calls := rest }) else none

/-- A request that arrives now. -/
def State.issue (s : State) (r : Request) : State := { s with calls := ⟨some 0, r⟩ :: s.calls }

/-- A caller's program: its requests in order, each issued once the block is idle (R221). -/
def State.load (s : State) (program : List Instr) : State :=
  { s with calls := s.calls ++ program.map fun i => ⟨none, (encode i).request⟩ }

end Sys2Proof.Machine
end

