-- ==== Sys2Proof/Machine/Step.lean ====
section
/-! DEFINITION. One step: no step in the faulted state (60_exceptions.md R208); else the request that is due is executed
(R209); else the running operation performs its next pin write (40_bus_driver.md R100). -/

namespace Sys2Proof.Machine

/-- R208, R209, R100. -/
def step (s : State) : Host.Outcome State Fault Refusal :=
  match s.fault with
  | some c => .fault (.blockFaulted c)
  | none =>
    match s.takeCall with
    | none => .next (microStep s)
    | some (r, s') => exec (decodeRequest r) s'

/-- The instruction of table number `w`, issued by a caller so that the next step runs it. A wire byte is no request: SEND_BYTE
is issued to send it (R70, R88), which is what the wire row does where the block sends such a byte (log entry 12). -/
def State.withFetchWord (s : State) (_nbits w : Nat) : State :=
  match tableWord w with
  | some cw => s.issue cw.request
  | none => s

end Sys2Proof.Machine
end

