-- ==== Sys2Proof/Machine/Construct.lean ====
section
/-! DEFINITION. Construction, the block's reset (70_reset_and_hazards.md R230 to R232), and the outcome codes of
60_exceptions.md R200. -/

namespace Sys2Proof.Machine

/-- R230: construction gives a block in the reset state, or is refused, recording the configuration (R200). -/
inductive Construction where
  | built (cfg : LegalConfig) (s : State)
  | badConfig (cfg : Config)

/-- R230, R232: no pin write is made (R231). A new block, whatever became of an earlier one. -/
def construct (cfg : Config) : Construction :=
  if h : cfg.legal = true then .built ⟨cfg, h⟩ State.reset else .badConfig cfg

/-- R200: the codes of a request's outcomes; the model's own refusal of a wire row has none (log entry 12). -/
def Reply.code : Reply → Option Byte
  | .ok _ => some 0x00#8
  | .err (.intRange _) => some 0x01#8
  | .err (.strLength _) => some 0x02#8
  | .faulted (.pinWriteFailure _ _ _ _) => some 0x10#8
  | .faulted (.protocolMisuse _) => some 0x11#8
  | .refused (.reservedOp _) => some 0x20#8
  | .refused (.concurrentRequest _) => some 0x21#8
  | .refused (.misplacedByte _) => none

/-- R200: the codes of a construction's outcomes. -/
def Construction.code : Construction → Byte
  | .built _ _ => 0x00#8
  | .badConfig _ => 0x22#8

end Sys2Proof.Machine
end

