-- ==== Sys2Proof/Safety.lean ====
section
/-! DEFINITION. What claims call safe, and the invariants of the block: the quiescent invariant of 10_state.md R38 with what
holds while an external operation runs, and the working registers of R28 and R103. -/

namespace Sys2Proof.Machine

/-- R101, R208: "no fault recorded"; D26: no refusal has occurred. -/
def State.Sound (s : State) : Prop := s.fault = none ∧ s.refused = false

/-- R102 to R105, R140 to R145, R170, R171: "`st.fault = none` and `st.seq = idle`". -/
def State.Ready (s : State) : Prop := s.fault = none ∧ s.seq = .idle

/-- R72: the call came through the external interface: it is an external request. -/
def Call.external (c : Call) : Bool := decide ((decodeRequest c.request).opClass = .external)

/-- The bus is quiescent: both lines unknown (no update yet) or both 1 (R38). -/
def quietLines (lines : Option Bit × Option Bit) : Prop :=
  lines = (none, none) ∨ lines = (some true, some true)

/-- The two lines' levels after a waveform is driven, from levels (clk, dio). -/
def driveLines (lines : Option Bit × Option Bit) (ws : List PinWrite) : Option Bit × Option Bit :=
  ws.foldl (fun l w => match w.1 with
    | .CLK => (some w.2, l.2)
    | .DIO => (l.1, some w.2)) lines

/-- R105: the job drives a whole update. -/
def Job.isUpdate : Job → Bool
  | .beginTxn => false
  | .sendByte _ => false
  | .endTxn => false
  | .setDisplay _ => true
  | .showInt _ => true
  | .showStr _ => true

/-- R25, R105: whether a transaction is open after the first k writes of an update: write counts 35, 143 and 35 (R108), a
transaction opening with its fourth write and closing with its last. -/
def updateTxn (k : Nat) : Bool :=
  decide (4 ≤ k ∧ k < 35) || decide (39 ≤ k ∧ k < 178) || decide (182 ≤ k ∧ k < 213)

/-- The byte a SEND_BYTE sub-operation of `ops` is sending at write k, and how many writes of its 27 are done. -/
def sendingAt : List SubOp → Nat → Option (Byte × Nat)
  | [], _ => none
  | .opening :: rest, k => if k < 4 then none else sendingAt rest (k - 4)
  | .send b :: rest, k => if k < 27 then some (b, k) else sendingAt rest (k - 27)
  | .closing :: rest, k => if k < 4 then none else sendingAt rest (k - 4)

/-- R103: inside a SEND_BYTE of b with j of its writes done, SR holds the bits still to be sent and BC the number sent. Before
its first write SR and BC are not loaded yet, and outside SEND_BYTE they are unspecified (R28). -/
def workMatches (ops : List SubOp) (k : Nat) (w : Work) : Prop :=
  match sendingAt ops k with
  | none => True
  | some (b, j) => j = 0 ∨ (w.sr = b >>> min (j / 3) 8 ∧ w.bc.val = min (j / 3) 8)

/-- `workMatches` of the running operation. -/
def State.WorkInv (s : State) : Prop :=
  match s.seq with
  | .idle => True
  | .running job k w => workMatches job.subOps k w

/-- R31: a running operation stands inside its waveform. -/
def State.SeqInv (s : State) : Prop :=
  match s.seq with
  | .idle => True
  | .running job k _ => k < job.waveform.length

/-- A faulted block is idle (R204). -/
def State.FaultInv (s : State) : Prop := s.fault ≠ none → s.seq = .idle

/-- The sequencer, the fault record and the working registers agree. Holds after construction and after every step,
whatever the calls. -/
def State.Coherent (s : State) : Prop := s.SeqInv ∧ s.FaultInv ∧ s.WorkInv

/-- The invariant R38 is a part of: the block is coherent, every call is external, and in an unfaulted block either the bus is
quiescent with no transaction open, or an update has performed its first k writes on a quiescent bus. -/
def State.ExternalInv (s : State) : Prop :=
  s.Coherent ∧ (∀ c ∈ s.calls, c.external = true) ∧
  (s.fault = none →
    match s.seq with
    | .idle => s.txn = false ∧ quietLines (s.clk, s.dio)
    | .running job k _ =>
      job.isUpdate = true ∧ k < 213 ∧ s.txn = updateTxn k ∧
        ∃ lines, quietLines lines ∧ (s.clk, s.dio) = driveLines lines (job.waveform.take k))

/-- What R92 says of the trace of a block used through the external interface: the listener finds it well framed, and in an
unfaulted block that is idle it stands outside a transaction and has the block's own record of the lines; while an update runs
the trace is such a trace followed by the first k writes of its waveform. -/
def State.FramedInv (s : State) : Prop :=
  s.ExternalInv ∧ (listen s.trace).wellFramed = true ∧
    (s.fault = none →
      match s.seq with
      | .idle => (listen s.trace).hearing = none ∧ ((listen s.trace).lclk, (listen s.trace).ldio) = (s.clk, s.dio)
      | .running job k _ =>
        ∃ before, s.trace = before ++ job.waveform.take k ∧ (listen before).wellFramed = true ∧
          (listen before).hearing = none ∧ quietLines ((listen before).lclk, (listen before).ldio))

/-- The wire row i has its place after the bytes already sent in the open transaction: a command row comes first in it, a
segment byte is byte 2 to 5 of one that began with 0xC0 (R81 to R85). -/
def StandsInPlace (i : Instr) (sent : Option (List Byte)) : Prop :=
  ((i = .cmdModeAutoinc ∨ i = .cmdAddr0 ∨ ∃ x, i = .cmdDisplayOn x) ∧ sent = some []) ∨
    ((∃ h x, i = .dataSegment h x) ∧ ∃ rest, rest.length < 4 ∧ sent = some (0xC0#8 :: rest))

/-- No call of the list arrives while an operation is running (R221: the caller's duty). -/
def dutiful (calls : List Call) : Bool := calls.all fun c => c.early.isNone

/-- An idle block with request `i` next, the later callers waiting their turn. -/
def State.Receives (s : State) (i : Instr) (rest : List Call) : Prop :=
  s.Ready ∧ dutiful rest = true ∧ ∃ c, s.calls = c :: rest ∧ decodeRequest c.request = i

end Sys2Proof.Machine
end

