-- ==== Sys2Proof/Certificates/Slice0/Obligations.lean ====
section
/-! DEFINITION. The statements about the block, from the numbered rules of spec/. `Host.Core.run Sys2Proof.core n` is n
steps of the machine. -/

open Sys2Proof Sys2Proof.Machine

/-! ### Encoding -/

/-- 30_encoding.md R71 to R73, R82 to R85: no bit or operand of a well-formed instruction is dropped by its code word. -/
def Obligations.DecodeOfEncodeIsTheInstruction : Prop :=
  ∀ i : Instr, i.wellFormed = true → decode (encode i) = .ok i

/-- R71, R72: a code word that decodes spells a well-formed instruction, whose own code word is the fields R72 lists, the
others zero. That a field the operation does not have is not looked at, and that `encode` writes zero there, is the model's
choice (log entry 17), not a rule's. -/
def Obligations.EncodeOfDecodeKeepsTheListedFields : Prop :=
  ∀ (w : CodeWord) (i : Instr), decode w = .ok i → i.wellFormed = true ∧ encode i = w.listed

/-- opcode_table.json: every code word that decodes matches exactly one row, and it is the row of its mnemonic. A command byte
that matches no row does not decode. -/
def Obligations.DecodingFollowsTheOpcodeTable : Prop :=
  (∀ (w : CodeWord) (i : Instr), decode w = .ok i →
    (opcodeTable.filter fun row => row.matches w).map Row.mnemonic = [i.mnemonic]) ∧
  (∀ (w : CodeWord) (e : DecodeError), decode w = .error e → opcodeTable.filter (fun row => row.matches w) = [])

/-- Words written out from R72, R82 to R85. -/
def Obligations.WordsOfTheSpecDecode : Prop :=
  decode (.req { op := 0b0000#4 }) = .ok .beginTxn ∧
  decode (.req { op := 0b0001#4, b := 0b10110010#8 }) = .ok (.sendByte 0xB2#8) ∧
  decode (.req { op := 0b0010#4 }) = .ok .endTxn ∧
  decode (.req { op := 0b0011#4, slots := ⟨0x3F#8, 0x06#8, 0x5B#8, 0x4F#8⟩, colon := true, bright3 := 3#3 }) =
    .ok (.setDisplay ⟨0x3F#8, 0x06#8, 0x5B#8, 0x4F#8⟩ true 3#3) ∧
  decode (.req { op := 0b0100#4, c := 0x37#8 }) = .ok (.encodeChar 0x37#8) ∧
  decode (.req { op := 0b0101#4, v := -42 }) = .ok (.encodeInt (-42)) ∧
  decode (.req { op := 0b0110#4, str := [0x48#8, 0x49#8] }) = .ok (.encodeStr [0x48#8, 0x49#8]) ∧
  decode (.req { op := 0b0111#4, v := 1234, colon := true, bright := 7 }) = .ok (.showInt 1234 true 7) ∧
  decode (.req { op := 0b1000#4, str := [0x31#8, 0x32#8], bright := 9 }) = .ok (.showStr [0x31#8, 0x32#8] false 9) ∧
  decode (.req { op := 0b1010#4 }) = .ok (.reserved 0xA#4) ∧
  decode (.wireCmd 0b01000000#8) = .ok .cmdModeAutoinc ∧
  decode (.wireCmd 0b11000000#8) = .ok .cmdAddr0 ∧
  decode (.wireCmd 0b10001011#8) = .ok (.cmdDisplayOn 3#3) ∧
  decode (.wireData 0b10000110#8) = .ok (.dataSegment true 0x06#7)

/-! ### A step -/

/-- R209, R221: a step of an unfaulted block takes the first call when it is due and executes the instruction it decodes to,
in the state without that call. Only requests are decoded (R70). -/
def Obligations.StepExecutesTheDueRequest : Prop :=
  ∀ (s : State) (c : Call) (rest : List Call) (i : Instr),
    s.fault = none → s.calls = c :: rest → c.due s.seq = true → decodeRequest c.request = i →
      step s = exec i { s with calls := rest }

/-- A call that is not due, or none, leaves the step to the running operation: R100. On an idle block with no call the step
changes nothing (R220: between requests it drives nothing). -/
def Obligations.StepWithoutDueRequestIsAMicroStep : Prop :=
  ∀ s : State, s.fault = none → (∀ c rest, s.calls = c :: rest → c.due s.seq = false) →
    step s = .next (microStep s) ∧ (s.seq = .idle → step s = .next s)

/-- The instruction of a table number, issued as `withFetchWord` issues it, is the very next one executed. A wire byte is no
request (R70): what is issued for it is SEND_BYTE of the byte, and that is the wire row itself where the row stands in its place,
and where no transaction is open or an operation is running (log entries 12, 13). -/
def Obligations.FetchedWordRunsNext : Prop :=
  ∀ (s : State) (nbits w : Nat) (i : Instr), s.fault = none → decodeTableWord nbits w = some i →
    (w < 16 → step (s.withFetchWord nbits w) = exec i s) ∧
    (16 ≤ w → step (s.withFetchWord nbits w) = exec (.sendByte (BitVec.ofNat 8 w)) s) ∧
    (16 ≤ w → (StandsInPlace i s.openBytes ∨ s.txn = false ∨ s.seq ≠ .idle) →
      step (s.withFetchWord nbits w) = exec i s)

/-! ### The Bus Driver: acceptance and first write -/

/-- R102: BEGIN_TXN on a ready block with no transaction open completes its acceptance and write 0, D1; or that write fails
(R101). -/
def Obligations.BeginTxnDrivesDataHighFirst : Prop :=
  ∀ s : State, s.Ready → s.txn = false →
    exec .beginTxn s = .next
      (if (s.start .beginTxn).nextAnswer then
        { (s.start .beginTxn).answered with
          dio := some true, trace := s.trace ++ [(.DIO, true)], seq := .running .beginTxn 1 s.staleWork }
      else
        { (s.start .beginTxn).answered with
          dio := none, fault := some (.pinWriteFailure .DIO true .beginTxn 0), seq := .idle,
          replies := s.replies ++ [.faulted (.pinWriteFailure .DIO true .beginTxn 0)] })

/-- R103: SEND_BYTE b in an open transaction loads SR with b and BC with 0 and drives C0; or that write fails. The wire rows
R82 to R85 are sent the same way, with their byte, where they stand in their place (the model's choice, log entry 12). -/
def Obligations.SendByteLoadsAndDrivesClockLowFirst : Prop :=
  ∀ (s : State) (i : Instr) (b : Byte), s.Ready → s.txn = true →
    (i = .sendByte b ∨
      StandsInPlace i s.openBytes ∧
        ((i = .cmdModeAutoinc ∧ b = 0x40#8) ∨ (i = .cmdAddr0 ∧ b = 0xC0#8) ∨
          (∃ x : BitVec 3, i = .cmdDisplayOn x ∧ b.toNat = 0x88 + x.toNat) ∨
          (∃ (h : Bool) (x : BitVec 7), i = .dataSegment h x ∧ b.toNat = 128 * h.toNat + x.toNat))) →
    exec i s = .next
      (if (s.start (.sendByte b)).nextAnswer then
        { (s.start (.sendByte b)).answered with
          clk := some false, trace := s.trace ++ [(.CLK, false)], seq := .running (.sendByte b) 1 ⟨b, 0⟩ }
      else
        { (s.start (.sendByte b)).answered with
          clk := none, fault := some (.pinWriteFailure .CLK false .sendByte 0), seq := .idle,
          replies := s.replies ++ [.faulted (.pinWriteFailure .CLK false .sendByte 0)] })

/-- R69, R85, R88: a wire row in a transaction that does not have its place is not sent: no write is made, no field of the block's
changes, and the refused mark is set. That it is refused rather than given no step is the model's choice (log entry 12). -/
def Obligations.WireByteOutOfPlaceIsNotSent : Prop :=
  ∀ (s : State) (i : Instr) (b : Byte), s.Ready → s.txn = true → ¬ StandsInPlace i s.openBytes →
    ((i = .cmdModeAutoinc ∧ b = 0x40#8) ∨ (i = .cmdAddr0 ∧ b = 0xC0#8) ∨
      (∃ x : BitVec 3, i = .cmdDisplayOn x ∧ b.toNat = 0x88 + x.toNat) ∨
      (∃ (h : Bool) (x : BitVec 7), i = .dataSegment h x ∧ b.toNat = 128 * h.toNat + x.toNat)) →
    exec i s = .next { s with refused := true, replies := s.replies ++ [.refused (.misplacedByte b)] }

/-- R69, R88: no instruction but SEND_BYTE starts sending, first in its transaction, a byte other than 0x40, 0xC0 and
0x88..0x8F; and no update does, a cut one included: the listener hears no other first byte, in a closed transaction or an open
one. -/
def Obligations.OnlyListedCommandBytesAreSent : Prop :=
  (∀ (s t : State) (i : Instr) (b : Byte) (k : Nat) (w : Work), s.Ready → (∀ x, i ≠ .sendByte x) → exec i s = .next t →
    t.seq = .running (.sendByte b) k w →
      (s.openBytes = some [] ∧ (b = 0x40#8 ∨ b = 0xC0#8 ∨ (0x88 ≤ b.toNat ∧ b.toNat ≤ 0x8F))) ∨
      (∃ rest, rest.length < 4 ∧ s.openBytes = some (0xC0#8 :: rest))) ∧
  (∀ (f : Frame) (n : Nat), ∀ bytes ∈ (listen ((wSet f).take n)).transactions ++
      (listen ((wSet f).take n)).hearing.toList.map Hearing.bytes, ∀ b ∈ bytes.head?,
    b = 0x40#8 ∨ b = 0xC0#8 ∨ (0x88 ≤ b.toNat ∧ b.toNat ≤ 0x8F))

/-- R104: END_TXN in an open transaction drives C0 first; or that write fails. -/
def Obligations.EndTxnDrivesClockLowFirst : Prop :=
  ∀ s : State, s.Ready → s.txn = true →
    exec .endTxn s = .next
      (if (s.start .endTxn).nextAnswer then
        { (s.start .endTxn).answered with
          clk := some false, trace := s.trace ++ [(.CLK, false)], seq := .running .endTxn 1 s.staleWork }
      else
        { (s.start .endTxn).answered with
          clk := none, fault := some (.pinWriteFailure .CLK false .endTxn 0), seq := .idle,
          replies := s.replies ++ [.faulted (.pinWriteFailure .CLK false .endTxn 0)] })

/-- R105: SET_DISPLAY on a ready block with no transaction open begins with BEGIN_TXN's D1; or that write fails. -/
def Obligations.SetDisplayDrivesDataHighFirst : Prop :=
  ∀ (s : State) (slots : Slots) (colon : Bool) (bright3 : BitVec 3), s.Ready → s.txn = false →
    exec (.setDisplay slots colon bright3) s = .next
      (if (s.start (.setDisplay ⟨slots, colon, bright3⟩)).nextAnswer then
        { (s.start (.setDisplay ⟨slots, colon, bright3⟩)).answered with
          dio := some true, trace := s.trace ++ [(.DIO, true)],
          seq := .running (.setDisplay ⟨slots, colon, bright3⟩) 1 s.staleWork }
      else
        { (s.start (.setDisplay ⟨slots, colon, bright3⟩)).answered with
          dio := none, fault := some (.pinWriteFailure .DIO true .setDisplay 0), seq := .idle,
          replies := s.replies ++ [.faulted (.pinWriteFailure .DIO true .setDisplay 0)] })

/-- R170, R171, R173: a display request that passes validation answers a next state in which nothing has been written and the
update stands at its micro-step 0 with the encoder's slots, the colon and the reduced brightness. -/
def Obligations.ShowRequestsAreAcceptedBeforeAnyWrite : Prop :=
  (∀ (s : State) (v : Int) (colon : Bool) (bright : Int) (x : Slots), s.Ready → s.txn = false →
    intSlots Config.cfg v = .ok x →
      exec (.showInt v colon bright) s = .next
        { s with
          seq := .running (.showInt ⟨x, colon, reduce Config.cfg.brightnessReduce bright⟩) 0 s.staleWork,
          draws := s.draws + 1 }) ∧
  (∀ (s : State) (str : List Byte) (colon : Bool) (bright : Int) (x : Slots), s.Ready → s.txn = false →
    strSlots Config.cfg str = .ok x →
      exec (.showStr str colon bright) s = .next
        { s with
          seq := .running (.showStr ⟨x, colon, reduce Config.cfg.brightnessReduce bright⟩) 0 s.staleWork,
          draws := s.draws + 1 })

/-! ### The Bus Driver: whole operations -/

/-- R102: when its four writes succeed, BEGIN_TXN drives `D1 C1 D0 C0` and opens the transaction; nothing else of the block
changes. -/
def Obligations.BeginTxnDrivesItsWaveform : Prop :=
  ∀ (s : State) (rest : List Call) (later : List Bool), s.Receives .beginTxn rest → s.txn = false →
    s.answers = List.replicate 4 true ++ later →
      Host.Core.run Sys2Proof.core 4 s = .next
        { s with
          clk := some false, dio := some false, txn := true,
          trace := s.trace ++ [(.DIO, true), (.CLK, true), (.DIO, false), (.CLK, false)],
          replies := s.replies ++ [.ok .none], calls := rest, answers := later, draws := s.draws + 1 }

/-- R103: when its 27 writes succeed, SEND_BYTE b drives each bit of b, least significant first, between a C0 and a C1, then
the release pulse, and leaves both lines at 1; nothing else of the block changes. -/
def Obligations.SendByteDrivesItsWaveform : Prop :=
  ∀ (s : State) (b : Byte) (rest : List Call) (later : List Bool), s.Receives (.sendByte b) rest → s.txn = true →
    s.answers = List.replicate 27 true ++ later →
      Host.Core.run Sys2Proof.core 27 s = .next
        { s with
          clk := some true, dio := some true,
          trace := s.trace ++
            [(.CLK, false), (.DIO, b.getLsbD 0), (.CLK, true), (.CLK, false), (.DIO, b.getLsbD 1), (.CLK, true),
             (.CLK, false), (.DIO, b.getLsbD 2), (.CLK, true), (.CLK, false), (.DIO, b.getLsbD 3), (.CLK, true),
             (.CLK, false), (.DIO, b.getLsbD 4), (.CLK, true), (.CLK, false), (.DIO, b.getLsbD 5), (.CLK, true),
             (.CLK, false), (.DIO, b.getLsbD 6), (.CLK, true), (.CLK, false), (.DIO, b.getLsbD 7), (.CLK, true),
             (.CLK, false), (.DIO, true), (.CLK, true)],
          replies := s.replies ++ [.ok .none], calls := rest, answers := later, draws := s.draws + 2 }

/-- R104: when its four writes succeed, END_TXN drives `C0 D0 C1 D1` and closes the transaction; nothing else of the block
changes. -/
def Obligations.EndTxnDrivesItsWaveform : Prop :=
  ∀ (s : State) (rest : List Call) (later : List Bool), s.Receives .endTxn rest → s.txn = true →
    s.answers = List.replicate 4 true ++ later →
      Host.Core.run Sys2Proof.core 4 s = .next
        { s with
          clk := some true, dio := some true, txn := false,
          trace := s.trace ++ [(.CLK, false), (.DIO, false), (.CLK, true), (.DIO, true)],
          replies := s.replies ++ [.ok .none], calls := rest, answers := later, draws := s.draws + 1 }

/-- R105: when its 213 writes succeed, SET_DISPLAY drives its three transactions in strict order, with the colon OR'ed into
bit 7 of slot 1 and the control byte 0x88 | bright3; nothing is kept of the frame. -/
def Obligations.SetDisplayDrivesThreeTransactions : Prop :=
  ∀ (s : State) (slots : Slots) (colon : Bool) (bright3 : BitVec 3) (rest : List Call) (later : List Bool),
    s.Receives (.setDisplay slots colon bright3) rest → s.txn = false →
    s.answers = List.replicate 213 true ++ later →
      Host.Core.run Sys2Proof.core 213 s = .next
        { s with
          clk := some true, dio := some true,
          trace := s.trace ++
            (wBegin ++ wSend 0x40#8 ++ wEnd ++
             wBegin ++ wSend 0xC0#8 ++ wSend slots.s0 ++ wSend (slots.s1 ||| if colon then 0x80#8 else 0x00#8) ++
               wSend slots.s2 ++ wSend slots.s3 ++ wEnd ++
             wBegin ++ wSend (0x88#8 ||| bright3.zeroExtend 8) ++ wEnd),
          replies := s.replies ++ [.ok .none], calls := rest, answers := later, draws := s.draws + 8 }

/-- R170, R171, R255: a display request that passes validation takes one validation step and 213 micro-steps and, when its
writes succeed, drives the update of the encoder's slots, the colon and the reduced brightness. -/
def Obligations.ShowRequestsDriveTheirUpdate : Prop :=
  ∀ (s : State) (i : Instr) (x : Slots) (colon : Bool) (bright : Int) (rest : List Call) (later : List Bool),
    ((∃ v, i = .showInt v colon bright ∧ intSlots Config.cfg v = .ok x) ∨
      (∃ str, i = .showStr str colon bright ∧ strSlots Config.cfg str = .ok x)) →
    s.Receives i rest → s.txn = false → s.answers = List.replicate 213 true ++ later →
      Host.Core.run Sys2Proof.core 214 s = .next
        { s with
          clk := some true, dio := some true,
          trace := s.trace ++ wSet ⟨x, colon, reduce Config.cfg.brightnessReduce bright⟩,
          replies := s.replies ++ [.ok .none], calls := rest, answers := later, draws := s.draws + 8 }

/-- R109: the levels of the lines and of `st.txn` once an operation has completed, whatever the platform answered on the way,
as long as no fault is recorded. -/
def Obligations.LevelsAfterEachOperation : Prop :=
  ∀ (s t : State) (i : Instr) (rest : List Call) (n : Nat) (c d x : Bool),
    s.Receives i rest →
    ((i = .beginTxn ∧ n = 4 ∧ c = false ∧ d = false ∧ x = true) ∨
      (∃ b, i = .sendByte b ∧ n = 27 ∧ c = true ∧ d = true ∧ x = true) ∨
      (i = .endTxn ∧ n = 4 ∧ c = true ∧ d = true ∧ x = false) ∨
      (∃ f0 f1 f2, i = .setDisplay f0 f1 f2 ∧ n = 213 ∧ c = true ∧ d = true ∧ x = false)) →
    Host.Core.run Sys2Proof.core n s = .next t → t.fault = none →
      t.seq = .idle ∧ t.clk = some c ∧ t.dio = some d ∧ t.txn = x

/-- R112: an update cut at any step: without a fault, what has been driven is a prefix of its waveform, and the lines and
`st.txn` are those of that prefix. -/
def Obligations.HaltedUpdateHasDrivenAPrefix : Prop :=
  ∀ (s t : State) (slots : Slots) (colon : Bool) (bright3 : BitVec 3) (rest : List Call) (n : Nat),
    s.Receives (.setDisplay slots colon bright3) rest → s.txn = false → n ≤ 213 →
    Host.Core.run Sys2Proof.core n s = .next t → t.fault = none →
      t.trace = s.trace ++ (wSet ⟨slots, colon, bright3⟩).take n ∧
      (t.clk, t.dio) = driveLines (s.clk, s.dio) ((wSet ⟨slots, colon, bright3⟩).take n) ∧
      t.txn = updateTxn n

/-- R255, R16: every request of a ready block ends, in at most 214 steps, with exactly one outcome delivered and the block idle
again, whatever the platform answers. -/
def Obligations.EveryRequestEndsInOneOutcome : Prop :=
  ∀ (s : State) (i : Instr) (rest : List Call), s.Receives i rest →
    ∃ (n : Nat) (t : State) (r : Reply), n ≤ 214 ∧ Host.Core.run Sys2Proof.core n s = .next t ∧ t.seq = .idle ∧
      t.replies = s.replies ++ [r] ∧ t.calls = rest

/-- R174: nothing of a frame is kept: two completed updates of different frames from one state end in states that differ in the
trace only. -/
def Obligations.FrameIsNotKept : Prop :=
  ∀ (s₁ s₂ t₁ t₂ : State) (f g : Frame) (rest : List Call),
    s₁.Receives (.setDisplay f.slots f.colon f.bright3) rest → s₂.Receives (.setDisplay g.slots g.colon g.bright3) rest →
    s₂ = { s₁ with calls := s₂.calls } →
    Host.Core.run Sys2Proof.core 213 s₁ = .next t₁ → Host.Core.run Sys2Proof.core 213 s₂ = .next t₂ →
    t₁.fault = none → t₂.fault = none →
      t₂ = { t₁ with trace := t₂.trace }

/-! ### The micro-step -/

/-- R100: a micro-step whose pin write succeeds drives entry k of the operation's waveform: that line's level, one more entry
of the trace, and position k + 1 or, after the last entry, an idle block and Ok. The other line, the fault record, the refused
mark and the calls are unchanged. -/
def Obligations.MicroStepPerformsTheNextWrite : Prop :=
  ∀ (s : State) (job : Job) (k : Nat) (w : Work) (p : Pin) (v : Bit),
    s.Coherent → s.fault = none → s.seq = .running job k w → s.takeCall = none → job.waveform[k]? = some (p, v) →
    s.nextAnswer = true →
      ∃ t, step s = .next t ∧ t.line p = some v ∧ (∀ q, q ≠ p → t.line q = s.line q) ∧
        t.trace = s.trace ++ [(p, v)] ∧ t.fault = none ∧ t.refused = s.refused ∧ t.calls = s.calls ∧
        (k + 1 < job.waveform.length → (∃ w', t.seq = .running job (k + 1) w') ∧ t.replies = s.replies) ∧
        (k + 1 = job.waveform.length → t.seq = .idle ∧ t.replies = s.replies ++ [.ok .none])

/-- R101: a micro-step whose pin write fails: the line's level is unknown, the write is not traced, the fault records the pin,
the level, the request's operation and k, `st.txn` keeps its value, and the block has no further step. -/
def Obligations.FailedPinWriteFaultsTheBlock : Prop :=
  ∀ (s : State) (job : Job) (k : Nat) (w : Work) (p : Pin) (v : Bit),
    s.Coherent → s.fault = none → s.seq = .running job k w → s.takeCall = none → job.waveform[k]? = some (p, v) →
    s.nextAnswer = false →
      ∃ t, step s = .next t ∧ t.line p = none ∧ (∀ q, q ≠ p → t.line q = s.line q) ∧ t.trace = s.trace ∧
        t.txn = s.txn ∧ t.fault = some (.pinWriteFailure p v job.op k) ∧ t.seq = .idle ∧
        t.replies = s.replies ++ [.faulted (.pinWriteFailure p v job.op k)] ∧ t.refused = s.refused ∧
        step t = .fault (.blockFaulted (.pinWriteFailure p v job.op k))

/-- R28, R31, R103, R204: position, fault record, SR and BC stay coherent under every step. -/
def Obligations.StepKeepsCoherence : Prop :=
  ∀ s t : State, s.Coherent → step s = .next t → t.Coherent

/-- The block is coherent after construction. -/
def Obligations.ResetIsCoherent : Prop := State.reset.Coherent

/-- R103 inside SEND_BYTE: the DIO write of bit n drives SR[0], which is bit n of the byte; BC counts the bits sent. -/
def Obligations.ShiftRegisterHoldsTheRemainingBits : Prop :=
  ∀ (s : State) (b : Byte) (k : Nat) (w : Work) (n : Nat),
    s.Coherent → s.seq = .running (.sendByte b) k w → n < 8 → k = 3 * n + 1 →
      w.sr.getLsbD 0 = b.getLsbD n ∧ w.bc.val = n ∧ (wSend b)[k]? = some (.DIO, b.getLsbD n)

/-- R27, R62, R200: a step appends at most one pin write to the trace and delivers at most one outcome; entries are never
removed. -/
def Obligations.StepAppendsAtMostOneWriteAndOneOutcome : Prop :=
  ∀ s t : State, step s = .next t →
    (t.trace = s.trace ∨ ∃ w, t.trace = s.trace ++ [w]) ∧ (t.replies = s.replies ∨ ∃ r, t.replies = s.replies ++ [r])

/-- R22, R23, R63: the recorded level of a line changes only with a write on it: to the traced level, or to unknown when the
write failed. -/
def Obligations.LineLevelsChangeOnlyByWrites : Prop :=
  ∀ (s t : State) (p : Pin), step s = .next t → t.line p ≠ s.line p →
    (∃ v, t.trace = s.trace ++ [(p, v)] ∧ t.line p = some v) ∨
    (t.trace = s.trace ∧ t.line p = none ∧ ∃ v op k, t.fault = some (.pinWriteFailure p v op k))

/-- R32: `st.txn` changes only with the write that completes a start or a stop, the last entry of a BEGIN_TXN's WBEGIN or of an
END_TXN's WEND in the running operation (`ops` are its sub-operations before that one), and `st.fault` is written only on
entering the faulted state, which traces nothing. -/
def Obligations.FlagsAreWrittenOnlyByTheirRules : Prop :=
  ∀ s t : State, step s = .next t →
    (t.txn ≠ s.txn → ∃ job k w ops rest, s.seq = .running job k w ∧
      ((job.subOps = ops ++ .opening :: rest ∧ k + 1 = (ops.flatMap SubOp.waveform ++ wBegin).length ∧ t.txn = true ∧
          t.trace = s.trace ++ [(.CLK, false)]) ∨
        (job.subOps = ops ++ .closing :: rest ∧ k + 1 = (ops.flatMap SubOp.waveform ++ wEnd).length ∧ t.txn = false ∧
          t.trace = s.trace ++ [(.DIO, true)]))) ∧
    (t.fault ≠ s.fault → t.seq = .idle ∧ t.trace = s.trace ∧ t.txn = s.txn ∧
      ∃ c, t.fault = some c ∧ t.replies = s.replies ++ [.faulted c])

/-- R114: while an operation runs and callers keep their duty, a step takes no request and moves that operation on by one
position, or completes it with its last write and delivers Ok, or faults it on a failed write; nothing else ends it. -/
def Obligations.RunningOperationIsNotInterrupted : Prop :=
  ∀ (s : State) (job : Job) (k : Nat) (w : Work), s.Coherent → s.fault = none → s.seq = .running job k w →
    dutiful s.calls = true →
    ∃ t, step s = .next t ∧ t.calls = s.calls ∧
      ((k + 1 < job.waveform.length ∧ t.fault = none ∧ t.replies = s.replies ∧ ∃ w', t.seq = .running job (k + 1) w') ∨
        (k + 1 = job.waveform.length ∧ t.fault = none ∧ t.replies = s.replies ++ [.ok .none] ∧ t.seq = .idle) ∨
        (∃ p v, job.waveform[k]? = some (p, v) ∧ t.fault = some (.pinWriteFailure p v job.op k) ∧
          t.replies = s.replies ++ [.faulted (.pinWriteFailure p v job.op k)] ∧ t.seq = .idle))

/-! ### Errors, faults, refusals -/

/-- R208: in the faulted state no request has a step, the encoder's included, and the block itself has none. -/
def Obligations.FaultedBlockHasNoStep : Prop :=
  ∀ (i : Instr) (s : State) (c : FaultCause), s.fault = some c →
    exec i s = .fault (.blockFaulted c) ∧ step s = .fault (.blockFaulted c)

/-- R218: a request that arrives while an operation is running is refused as ConcurrentRequest, and only the refused mark and
the delivered outcome change: the operation goes on. The selector named for a wire row is SEND_BYTE's (log entry 12). -/
def Obligations.RequestWhileRunningIsRefused : Prop :=
  ∀ (i : Instr) (s : State) (job : Job) (k : Nat) (w : Work), s.fault = none → s.seq = .running job k w →
    exec i s = .next { s with refused := true, replies := s.replies ++ [.refused (.concurrentRequest i.selector)] }

/-- R73: a request with op in 0x9..0xF decodes to no operation and is refused as ReservedOp; the block's fields are unchanged and
the refused mark is set. -/
def Obligations.ReservedSelectorIsRefused : Prop :=
  ∀ (s : State) (r : Request), s.Ready → 9 ≤ r.op.toNat →
    decode (.req r) = .ok (.reserved r.op) ∧
      exec (.reserved r.op) s = .next { s with refused := true, replies := s.replies ++ [.refused (.reservedOp r.op)] }

/-- R206: the precondition on `st.txn`: SEND_BYTE and END_TXN outside a transaction, and BEGIN_TXN, SET_DISPLAY and a validated
display request inside one, fault with ProtocolMisuse before any write; only the fault record, the idle sequencer and the
delivered outcome are written. The wire rows are SEND_BYTE, and a display request's fault names the display request: the
model's choices (log entries 12, 19). -/
def Obligations.MisuseFaultsBeforeAnyWrite : Prop :=
  ∀ (s : State) (i : Instr) (op : Op), s.Ready →
    ((s.txn = false ∧ op = .sendByte ∧ (∃ b, i = .sendByte b)) ∨
      (s.txn = false ∧ op = .sendByte ∧
        (i = .cmdModeAutoinc ∨ i = .cmdAddr0 ∨ (∃ x, i = .cmdDisplayOn x) ∨ (∃ h x, i = .dataSegment h x))) ∨
      (s.txn = false ∧ op = .endTxn ∧ i = .endTxn) ∨
      (s.txn = true ∧ op = .beginTxn ∧ i = .beginTxn) ∨
      (s.txn = true ∧ op = .setDisplay ∧ (∃ x c b, i = .setDisplay x c b)) ∨
      (s.txn = true ∧ op = .showInt ∧ (∃ v c b, v.natAbs < 10000 ∧ i = .showInt v c b)) ∨
      (s.txn = true ∧ op = .showStr ∧ (∃ str c b, str.length ≤ 4 ∧ i = .showStr str c b))) →
    exec i s = .next
      { s with fault := some (.protocolMisuse op), seq := .idle, replies := s.replies ++ [.faulted (.protocolMisuse op)] }

/-- R206, last sentence: the fault cannot be reached through the external operations alone. -/
def Obligations.ExternalRequestsNeverMisuse : Prop :=
  ∀ (s t : State) (op : Op), s.ExternalInv → step s = .next t → t.fault ≠ some (.protocolMisuse op)

/-- R173: the whole frame is computed and checked before the first pin write: the step that executes a display request traces
nothing and changes neither line, whatever it finds. A range error leaves `st.txn` and everything else of the block as it was
too, a transaction open or not; only the error is delivered, and it is not sticky (R201). -/
def Obligations.RangeErrorHappensBeforeAnyBusActivity : Prop :=
  (∀ (s t : State) (i : Instr), s.Ready → ((∃ v c b, i = .showInt v c b) ∨ (∃ str c b, i = .showStr str c b)) →
    exec i s = .next t → t.trace = s.trace ∧ t.clk = s.clk ∧ t.dio = s.dio ∧ t.txn = s.txn) ∧
  (∀ (s : State) (v : Int) (colon : Bool) (bright : Int), s.Ready → 10000 ≤ v.natAbs →
    exec (.showInt v colon bright) s = .next { s with replies := s.replies ++ [.err (.intRange v)] }) ∧
  (∀ (s : State) (str : List Byte) (colon : Bool) (bright : Int), s.Ready → 4 < str.length →
    exec (.showStr str colon bright) s = .next { s with replies := s.replies ++ [.err (.strLength str.length)] })

/-- R209: the order in which a request's conditions are checked. -/
def Obligations.ConditionsAreCheckedInOrder : Prop :=
  (∀ (i : Instr) (s : State) (c : FaultCause), s.fault = some c → exec i s = .fault (.blockFaulted c)) ∧
  (∀ (i : Instr) (s : State), s.fault = none → s.seq ≠ .idle → ∃ t sel, exec i s = .next t ∧
    t.replies = s.replies ++ [.refused (.concurrentRequest sel)]) ∧
  (∀ (op : Selector) (s : State), s.Ready → ∃ t, exec (.reserved op) s = .next t ∧
    t.replies = s.replies ++ [.refused (.reservedOp op)]) ∧
  (∀ (s : State) (v : Int) (c : Bool) (b : Int), s.Ready → 10000 ≤ v.natAbs →
    (∃ t, exec (.encodeInt v) s = .next t ∧ t.replies = s.replies ++ [.err (.intRange v)]) ∧
    (∃ t, exec (.showInt v c b) s = .next t ∧ t.replies = s.replies ++ [.err (.intRange v)])) ∧
  (∀ (s : State) (str : List Byte) (c : Bool) (b : Int), s.Ready → 4 < str.length →
    (∃ t, exec (.encodeStr str) s = .next t ∧ t.replies = s.replies ++ [.err (.strLength str.length)]) ∧
    (∃ t, exec (.showStr str c b) s = .next t ∧ t.replies = s.replies ++ [.err (.strLength str.length)])) ∧
  (∀ s : State, s.Ready →
    (s.txn = true →
      (∃ t, exec .beginTxn s = .next t ∧ t.replies = s.replies ++ [.faulted (.protocolMisuse .beginTxn)]) ∧
      (∀ x c b, ∃ t, exec (.setDisplay x c b) s = .next t ∧
        t.replies = s.replies ++ [.faulted (.protocolMisuse .setDisplay)]) ∧
      (∀ v c b, v.natAbs < 10000 → ∃ t op, exec (.showInt v c b) s = .next t ∧
        t.replies = s.replies ++ [.faulted (.protocolMisuse op)]) ∧
      (∀ str c b, str.length ≤ 4 → ∃ t op, exec (.showStr str c b) s = .next t ∧
        t.replies = s.replies ++ [.faulted (.protocolMisuse op)])) ∧
    (s.txn = false →
      (∀ b, ∃ t, exec (.sendByte b) s = .next t ∧ t.replies = s.replies ++ [.faulted (.protocolMisuse .sendByte)]) ∧
      (∃ t, exec .endTxn s = .next t ∧ t.replies = s.replies ++ [.faulted (.protocolMisuse .endTxn)]))) ∧
  (∀ (s : State) (job : Job) (k : Nat) (w : Work) (p : Pin) (v : Bit), s.Coherent → s.fault = none →
    s.seq = .running job k w → s.takeCall = none → job.waveform[k]? = some (p, v) → s.nextAnswer = false →
      ∃ t, step s = .next t ∧ t.replies = s.replies ++ [.faulted (.pinWriteFailure p v job.op k)] ∧
        step t = .fault (.blockFaulted (.pinWriteFailure p v job.op k)))

/-- R207, D26: once a request has been refused, no step clears the mark; and the step that sets it changes no field of the
block's. -/
def Obligations.RefusedMarkIsSticky : Prop :=
  ∀ s t : State, step s = .next t →
    (s.refused = true → t.refused = true) ∧
    (t.refused ≠ s.refused → t.clk = s.clk ∧ t.dio = s.dio ∧ t.txn = s.txn ∧ t.fault = s.fault ∧ t.trace = s.trace ∧
      t.seq = s.seq)

/-! ### The Segment Encoder -/

/-- R140: ENCODE_CHAR on a ready block, a transaction open or not, returns GLYPH(Fold(c)) and changes nothing else. -/
def Obligations.EncodeCharReturnsTheGlyph : Prop :=
  ∀ (s : State) (c : Byte), s.Ready →
    exec (.encodeChar c) s = .next
      { s with
        replies := s.replies ++
          [.ok (.byte (Config.cfg.glyph (if 0x41 ≤ c.toNat ∧ c.toNat ≤ 0x5A then c + 0x20#8 else c)))] }

/-- R142: ENCODE_INT v returns the glyphs of the four decimal digits of |v|, slot 0 overwritten by MINUS_GLYPH when v is
negative; a magnitude of 10000 or more is a range error that records v. Nothing else changes. -/
def Obligations.EncodeIntReturnsTheDigits : Prop :=
  ∀ (s : State) (v : Int), s.Ready →
    (10000 ≤ v.natAbs → exec (.encodeInt v) s = .next { s with replies := s.replies ++ [.err (.intRange v)] }) ∧
    (∀ a b c d : Nat, a < 10 → b < 10 → c < 10 → d < 10 → v.natAbs = 1000 * a + 100 * b + 10 * c + d →
      exec (.encodeInt v) s = .next
        { s with
          replies := s.replies ++
            [.ok (.slots
              { s0 := if v < 0 then Config.cfg.minusGlyph else Config.cfg.glyph (BitVec.ofNat 8 (0x30 + a))
                s1 := Config.cfg.glyph (BitVec.ofNat 8 (0x30 + b))
                s2 := Config.cfg.glyph (BitVec.ofNat 8 (0x30 + c))
                s3 := Config.cfg.glyph (BitVec.ofNat 8 (0x30 + d)) })] })

/-- R145: ENCODE_STR s returns the patterns of its characters left to right, blank past its end; a string longer than 4 is a
range error that records its length. Nothing else changes. -/
def Obligations.EncodeStrReturnsTheCharacters : Prop :=
  ∀ (s : State) (str : List Byte), s.Ready →
    (4 < str.length →
      exec (.encodeStr str) s = .next { s with replies := s.replies ++ [.err (.strLength str.length)] }) ∧
    (str.length ≤ 4 → ∃ x : Slots,
      exec (.encodeStr str) s = .next { s with replies := s.replies ++ [.ok (.slots x)] } ∧
      x.toList = str.map (charPattern Config.cfg) ++ List.replicate (4 - str.length) 0x00#8)

/-- R39: the encoder operations read only the configuration and their operands, and write no state field: one reply for every
ready state, and nothing else changes. -/
def Obligations.EncoderReadsOnlyItsOperands : Prop :=
  ∀ i : Instr, ((∃ c, i = .encodeChar c) ∨ (∃ v, i = .encodeInt v) ∨ (∃ str, i = .encodeStr str)) →
    ∃ r, ∀ s : State, s.Ready → exec i s = .next { s with replies := s.replies ++ [r] }

/-- R141: the fold, and that it changes no result under a legal configuration. -/
def Obligations.FoldChangesNoLookup : Prop :=
  (∀ c : Byte, 0x41 ≤ c.toNat → c.toNat ≤ 0x5A → fold c = c + 0x20#8) ∧
  (∀ c : Byte, c.toNat < 0x41 ∨ 0x5A < c.toNat → fold c = c) ∧
  (∀ (cfg : Config) (c : Byte), cfg.legal = true → glyphRead cfg (fold c) = glyphRead cfg c)

/-- R144: the sign clobbers the leftmost digit; `intSlots` is what ENCODE_INT answers with. -/
def Obligations.SignClobbersTheLeftmostDigit : Prop :=
  (∀ (s : State) (v : Int) (x : Slots), s.Ready → intSlots Config.cfg v = .ok x →
    exec (.encodeInt v) s = .next { s with replies := s.replies ++ [.ok (.slots x)] }) ∧
  (∀ (cfg : Config) (v : Int), -10000 < v → v < 0 → ∃ x, intSlots cfg v = .ok x ∧ x.s0 = cfg.minusGlyph ∧
    x.s1 = digitGlyph cfg (v.natAbs / 100 % 10) ∧ x.s2 = digitGlyph cfg (v.natAbs / 10 % 10) ∧
    x.s3 = digitGlyph cfg (v.natAbs % 10)) ∧
  (∀ (cfg : Config) (v w : Int), -10000 < v → v ≤ -1000 → -1000 < w → w < 0 → v.natAbs % 1000 = w.natAbs →
    intSlots cfg v = intSlots cfg w) ∧
  (∀ cfg : Config, intSlots cfg (-1234) = .ok ⟨cfg.minusGlyph, digitGlyph cfg 2, digitGlyph cfg 3, digitGlyph cfg 4⟩ ∧
    intSlots cfg (-234) = intSlots cfg (-1234))

/-- R148: the source's testable properties, for every legal configuration; INV is R53's partial inverse. The first clause:
`intSlots`, `strSlots` and `charPattern` are what the three operations answer with, and the installed configuration is legal. -/
def Obligations.SourcePropertiesHoldOfTheEncoder : Prop :=
  (Config.cfg.legal = true ∧ ∀ s : State, s.Ready →
    (∀ v, exec (.encodeInt v) s = .next { s with replies := s.replies ++ [slotsReply (intSlots Config.cfg v)] }) ∧
    (∀ str, exec (.encodeStr str) s = .next { s with replies := s.replies ++ [slotsReply (strSlots Config.cfg str)] }) ∧
    (∀ c, exec (.encodeChar c) s = .next { s with replies := s.replies ++ [.ok (.byte (charPattern Config.cfg c))] })) ∧
  (∀ (cfg : Config) (a b c d : Nat), cfg.legal = true → a < 10 → b < 10 → c < 10 → d < 10 →
    ∃ x, intSlots cfg ((1000 * a + 100 * b + 10 * c + d : Nat) : Int) = .ok x ∧
      x.toList.map (inverseGlyph cfg) = [a, b, c, d].map fun n => some (BitVec.ofNat 8 (0x30 + n))) ∧
  (∀ (cfg : Config) (v : Int) (b c d : Nat), cfg.legal = true → v < 0 → b < 10 → c < 10 → d < 10 →
    v.natAbs = 100 * b + 10 * c + d →
    ∃ x, intSlots cfg v = .ok x ∧ x.s0 = cfg.minusGlyph ∧
      [x.s1, x.s2, x.s3].map (inverseGlyph cfg) = [b, c, d].map fun n => some (BitVec.ofNat 8 (0x30 + n))) ∧
  (∀ cfg : Config, intSlots cfg 10000 = .error (.intRange 10000) ∧ intSlots cfg (-10000) = .error (.intRange (-10000))) ∧
  (∀ cfg : Config, strSlots cfg [0x48#8, 0x45#8, 0x4C#8, 0x4C#8, 0x4F#8] = .error (.strLength 5)) ∧
  (∀ cfg : Config, ∃ x, strSlots cfg [0x48#8, 0x49#8] = .ok x ∧ x.s2 = 0x00#8 ∧ x.s3 = 0x00#8) ∧
  (∀ cfg : Config, cfg.legal = true → charPattern cfg 0x7A#8 = 0x00#8)

/-! ### Operands and waveforms -/

/-- R172: both readings of the brightness reduction, and that a brightness in 0..7 is not changed by either. -/
def Obligations.BrightnessReductionFollowsItsMode : Prop :=
  (∀ b : Int, ((reduce .mask b).toNat : Int) = b % 8) ∧
  (∀ b : Int, ((reduce .clamp b).toNat : Int) = min (max b 0) 7) ∧
  (∀ (mode : BrightnessReduce) (b : Int), 0 ≤ b → b ≤ 7 → ((reduce mode b).toNat : Int) = b) ∧
  [reduce .mask 9, reduce .mask 8, reduce .mask (-1)] = [1#3, 0#3, 7#3] ∧
  [reduce .clamp 9, reduce .clamp 8, reduce .clamp (-1)] = [7#3, 7#3, 0#3]

/-- R107: the control byte and its eight values; bit 3 is always 1 (R84: the block never sends display off). -/
def Obligations.ControlByteIsDisplayOnAndBrightness : Prop :=
  (∀ b : BitVec 3, ctrlByte b = 0x88#8 ||| (b.zeroExtend 8 &&& 0x07#8)) ∧
  [ctrlByte 0, ctrlByte 1, ctrlByte 2, ctrlByte 3, ctrlByte 4, ctrlByte 5, ctrlByte 6, ctrlByte 7] =
    [0x88#8, 0x89#8, 0x8A#8, 0x8B#8, 0x8C#8, 0x8D#8, 0x8E#8, 0x8F#8]

/-- R87, R106: the data bytes; the colon is OR'ed into bit 7 of slot 1 and touches no other bit and no other slot. -/
def Obligations.ColonIsOredIntoSlotOne : Prop :=
  ∀ x : Slots,
    (∀ colon, dataBytes x colon = [0xC0#8, x.s0, colonByte x colon, x.s2, x.s3]) ∧
    (∀ colon, colonByte x colon = x.s1 ||| if colon then 0x80#8 else 0x00#8) ∧
    colonByte x false = x.s1 ∧ (colonByte x true).getLsbD 7 = true ∧
    (∀ (colon : Bool) (n : Nat), n < 7 → (colonByte x colon).getLsbD n = x.s1.getLsbD n)

/-- R108: the write counts. -/
def Obligations.WriteCounts : Prop :=
  wBegin.length = 4 ∧ (∀ b, (wSend b).length = 27) ∧ wEnd.length = 4 ∧
  (∀ bs, (wTxn bs).length = 8 + 27 * bs.length ∧ countPin .DIO (wTxn bs) = 2 + 9 * bs.length + 2 ∧
    countPin .CLK (wTxn bs) = 2 + 18 * bs.length + 2) ∧
  (∀ f, (wSet f).length = 213 ∧ countPin .DIO (wSet f) = 75 ∧ countPin .CLK (wSet f) = 138)

/-- R59: the levels driven on the data line for a byte, in order, are its bits from least to most significant, then the
release; for 0b10110010 they are 0,1,0,0,1,1,0,1. -/
def Obligations.BytesAreSentLeastSignificantBitFirst : Prop :=
  (∀ b : Byte, ((wSend b).filter fun w => decide (w.1 = .DIO)).map Prod.snd =
    (List.range 8).map (fun n => b.getLsbD n) ++ [true]) ∧
  (((wSend 0b10110010#8).filter fun w => decide (w.1 = .DIO)).map Prod.snd).take 8 =
    [false, true, false, false, true, true, false, true]

/-! ### The external interface and the listener -/

/-- R38 with what holds during an update: kept by every step of a block used through the external operations. -/
def Obligations.StepKeepsTheQuiescentInvariant : Prop :=
  ∀ s t : State, s.ExternalInv → step s = .next t → t.ExternalInv

/-- R37, R38: it holds after construction. -/
def Obligations.ResetIsQuiescent : Prop := State.reset.ExternalInv

/-- R92, R115: every trace the block emits through the external operations is well framed, a trace cut short included. -/
def Obligations.StepKeepsTheTraceWellFramed : Prop :=
  ∀ s t : State, s.FramedInv → step s = .next t → t.FramedInv

/-- R92: it holds after construction. -/
def Obligations.ResetTraceIsWellFramed : Prop := State.reset.FramedInv

/-- R92, R110, R217: from a listener outside a transaction with the lines quiescent, the listener hears of an update exactly its
three transactions, each with its release samples 1 and one trailing sample, and the intended reading of them is the frame. -/
def Obligations.ListenerHearsTheUpdate : Prop :=
  ∀ (l : Listener) (f : Frame), l.hearing = none → quietLines (l.lclk, l.ldio) →
    l.hearAll (wSet f) =
      { l with
        lclk := some true, ldio := some true,
        heard := l.heard ++
          [⟨[0x40#8], [true], 1⟩,
           ⟨[0xC0#8, f.slots.s0, colonByte f.slots f.colon, f.slots.s2, f.slots.s3], [true, true, true, true, true], 1⟩,
           ⟨[ctrlByte f.bright3], [true], 1⟩] } ∧
    intended ((listen (wSet f)).transactions) =
      some ⟨⟨f.slots.s0, colonByte f.slots f.colon, f.slots.s2, f.slots.s3⟩, f.colon || f.slots.s1.getLsbD 7, f.bright3⟩

/-- R235: the start edge is well formed whatever the prior levels. -/
def Obligations.StartIsHeardFromAnyLevels : Prop :=
  ∀ l : Listener, l.hearing = none →
    (l.hearAll wBegin).hearing = some ⟨[], [], []⟩ ∧ (l.hearAll wBegin).nestedStart = l.nestedStart ∧
      (l.hearAll wBegin).lclk = some false ∧ (l.hearAll wBegin).ldio = some false

/-! ### Construction -/

/-- R37: the reset values the spec gives. -/
def Obligations.ResetValues : Prop :=
  State.reset.clk = none ∧ State.reset.dio = none ∧ State.reset.txn = false ∧ State.reset.fault = none ∧
    State.reset.trace = [] ∧ State.reset.seq = .idle

/-- R230 to R232: construction gives the reset state or is refused with BadConfig, and it is refused exactly when the pins are the
same or GLYPH or MINUS_GLYPH breaks R51 to R54. -/
def Obligations.ConstructionRefusesBadConfigurations : Prop :=
  ∀ cfg : Config,
    ((∃ c, construct cfg = .built c State.reset ∧ c.cfg = cfg) ∨ construct cfg = .badConfig cfg) ∧
    (construct cfg = .badConfig cfg ↔
      cfg.clkPin = cfg.dioPin ∨
      (∃ c : Byte, 0x41 ≤ c.toNat ∧ c.toNat ≤ 0x5A ∧ cfg.glyph c ≠ cfg.glyph (c + 0x20#8)) ∨
      cfg.glyph 0x7A#8 ≠ 0x00#8 ∨
      (∃ m n : Nat, m < n ∧ n < 10 ∧ cfg.glyph (BitVec.ofNat 8 (0x30 + m)) = cfg.glyph (BitVec.ofNat 8 (0x30 + n))) ∨
      (∃ n : Nat, n < 10 ∧ cfg.glyph (BitVec.ofNat 8 (0x30 + n)) = 0x00#8) ∨
      cfg.minusGlyph = 0x00#8 ∨
      (∃ n : Nat, n < 10 ∧ cfg.glyph (BitVec.ofNat 8 (0x30 + n)) = cfg.minusGlyph))
end

