-- ==== Sys2Proof/Laws/Encoder.lean ====
section
/-! SUPPORT. The glyph constraints of 20_memory.md R51 to R54 in the form proofs use, and what they give the encoder. -/

namespace Sys2Proof.Machine

/-- R51, in terms of character codes. -/
theorem glyphFolds_iff (cfg : Config) :
    cfg.glyphFolds = true ↔
      ∀ c : Byte, 0x41 ≤ c.toNat → c.toNat ≤ 0x5A → cfg.glyph c = cfg.glyph (c + 0x20#8) := by
  have hall : ∀ p : Nat → Bool, (List.range 26).all p = true ↔ ∀ i, i < 26 → p i = true := by simp
  unfold Config.glyphFolds
  rw [hall]
  constructor
  · intro h c h1 h2
    have := h (c.toNat - 0x41) (by omega)
    have e : 0x41#8 + BitVec.ofNat 8 (c.toNat - 0x41) = c := by
      apply BitVec.eq_of_toNat_eq
      simp
      omega
    have e2 : 0x61#8 + BitVec.ofNat 8 (c.toNat - 0x41) = c + 0x20#8 := by
      apply BitVec.eq_of_toNat_eq
      simp
      omega
    rw [e, e2] at this
    simpa using this
  · intro h i hi
    have := h (0x41#8 + BitVec.ofNat 8 i) (by simp; omega) (by simp; omega)
    have e2 : 0x61#8 + BitVec.ofNat 8 i = 0x41#8 + BitVec.ofNat 8 i + 0x20#8 := by
      apply BitVec.eq_of_toNat_eq
      simp
      omega
    simp [e2, this]

/-- R232, clause by clause. -/
theorem legal_iff (cfg : Config) :
    cfg.legal = true ↔ cfg.clkPin ≠ cfg.dioPin ∧ cfg.glyphFolds = true ∧ cfg.glyph 0x7A#8 = 0x00#8 ∧
      cfg.digitsDistinct = true ∧ cfg.minusDistinct = true := by
  simp [Config.legal, Config.pinsDistinct, Config.zIsBlank, and_assoc]

/-- The configuration the block was constructed with is one construction accepts. -/
theorem cfg_legal : Config.cfg.legal = true := Config.installed.isLegal

/-- R53: the digit patterns are pairwise distinct. -/
theorem digitGlyph_injective {cfg : Config} (h : cfg.legal = true) {m n : Nat} (hm : m < 10) (hn : n < 10)
    (he : digitGlyph cfg m = digitGlyph cfg n) : m = n := by
  have h1 := ((legal_iff cfg).1 h).2.2.2.1
  simp [Config.digitsDistinct] at h1
  have hlen : cfg.digitPatterns.length = 10 := by simp [Config.digitPatterns]
  have hinj := List.nodup_iff_injective_get.1 h1.1
  have := @hinj ⟨m, by omega⟩ ⟨n, by omega⟩
    (by simpa [Config.digitPatterns, digitGlyph, glyphRead] using he)
  simpa using this

/-- R53: INV gives a digit's pattern its character back. -/
theorem inverseGlyph_digit {cfg : Config} (h : cfg.legal = true) {n : Nat} (hn : n < 10) :
    inverseGlyph cfg (digitGlyph cfg n) = some (BitVec.ofNat 8 (0x30 + n)) := by
  have hfind : (List.range 10).find? (fun d => digitGlyph cfg d == digitGlyph cfg n) = some n := by
    rw [List.find?_eq_some_iff_getElem]
    refine ⟨by simp, n, by simpa using hn, by simp, fun j hj => ?_⟩
    simp
    intro he
    have := digitGlyph_injective h (by omega) hn he
    omega
  unfold inverseGlyph
  rw [hfind]
  simp [BitVec.ofNat_add]

/-- R142: a magnitude below 10000 is in range. -/
theorem intSlots_in_range (cfg : Config) {v : Int} (h : v.natAbs < 10000) : ∃ x, intSlots cfg v = .ok x := by
  unfold intSlots
  rw [if_neg (by omega)]
  exact ⟨_, rfl⟩

/-- R145: at most four characters are in range. -/
theorem strSlots_in_range (cfg : Config) {str : List Byte} (h : str.length ≤ 4) : ∃ x, strSlots cfg str = .ok x := by
  unfold strSlots
  rw [if_neg (by omega)]
  exact ⟨_, rfl⟩

end Sys2Proof.Machine
end

