-- ==== Sys2Proof/Laws/Listener.lean ====
section
/-! SUPPORT. What the listener hears of each waveform (30_encoding.md R90 to R92). -/

namespace Sys2Proof.Machine

theorem hearAll_append (l : Listener) (a b : List PinWrite) : l.hearAll (a ++ b) = (l.hearAll a).hearAll b := by
  simp [Listener.hearAll]

/-- R91 undoes R59: eight samples in order are the byte. -/
theorem byteOf_bits (b : Byte) :
    byteOf [b.getLsbD 0, b.getLsbD 1, b.getLsbD 2, b.getLsbD 3, b.getLsbD 4, b.getLsbD 5, b.getLsbD 6, b.getLsbD 7] = b := by
  revert b
  decide +kernel

/-- One bit is one sample. -/
theorem hear_wBit (a b : Option Bit) (h : Hearing) (heard : List Heard) (n t : Bool) (v : Bit) :
    (Listener.mk a b (some h) heard n t).hearAll (wBit v) =
      Listener.mk (some true) (some v) (some (h.sample v)) heard n t := by
  simp [Listener.hearAll, wBit, Listener.hear, Listener.edge, Listener.rise]

/-- A sent byte is heard whole, with its release 1. -/
theorem hear_wSend (l : Listener) (h : Hearing) (b : Byte) (hh : l.hearing = some h) (hs : h.samples = []) :
    l.hearAll (wSend b) =
      { l with lclk := some true, ldio := some true, hearing := some ⟨h.bytes ++ [b], h.rels ++ [true], []⟩ } := by
  cases l
  cases h
  simp only at hh hs
  subst hh hs
  simp only [wSend, hearAll_append, hear_wBit]
  simp [Hearing.sample]
  exact byteOf_bits b

theorem hear_sends (bs : List Byte) (l : Listener) (h : Hearing) (hh : l.hearing = some h) (hs : h.samples = [])
    (hb : bs ≠ []) :
    l.hearAll (bs.flatMap wSend) =
      { l with
        lclk := some true, ldio := some true,
        hearing := some ⟨h.bytes ++ bs, h.rels ++ List.replicate bs.length true, []⟩ } := by
  induction bs generalizing l h with
  | nil => exact absurd rfl hb
  | cons b bs ih =>
    simp only [List.flatMap_cons, hearAll_append, hear_wSend l h b hh hs]
    by_cases hb : bs = []
    · subst hb
      simp [Listener.hearAll, List.replicate_succ]
    · rw [ih _ _ rfl rfl hb]
      simp [List.replicate_succ]

/-- A start from quiescent lines opens a transaction. -/
theorem hear_wBegin (l : Listener) (hh : l.hearing = none) (hq : quietLines (l.lclk, l.ldio)) :
    l.hearAll wBegin = { l with lclk := some false, ldio := some false, hearing := some ⟨[], [], []⟩ } := by
  cases l
  simp only at hh
  subst hh
  rcases hq with hq | hq <;> simp only [Prod.mk.injEq] at hq <;> obtain ⟨h1, h2⟩ := hq <;> subst h1 h2 <;>
    simp [Listener.hearAll, wBegin, Listener.hear, Listener.edge, Listener.startEdge]

/-- A stop closes it; its C1 is the one trailing sample (R91). -/
theorem hear_wEnd (l : Listener) (h : Hearing) (hh : l.hearing = some h) (hs : h.samples = []) :
    l.hearAll wEnd =
      { l with
        lclk := some true, ldio := some true, hearing := none, heard := l.heard ++ [⟨h.bytes, h.rels, 1⟩] } := by
  cases l
  cases h
  simp only at hh hs
  subst hh hs
  simp [Listener.hearAll, wEnd, Listener.hear, Listener.edge, Listener.rise, Listener.stopEdge, Hearing.sample]

/-- A transaction of at least one byte. -/
theorem hear_wTxn (l : Listener) (bs : List Byte) (hb : bs ≠ []) (hh : l.hearing = none)
    (hq : quietLines (l.lclk, l.ldio)) :
    l.hearAll (wTxn bs) =
      { l with
        lclk := some true, ldio := some true, heard := l.heard ++ [⟨bs, List.replicate bs.length true, 1⟩] } := by
  simp only [wTxn, hearAll_append, hear_wBegin l hh hq]
  rw [hear_sends bs _ _ rfl rfl hb, hear_wEnd _ _ rfl rfl]
  simp [hh]

/-- A violation of framing is not mended by hearing more. -/
theorem wellFramed_of_hear (l : Listener) (w : PinWrite) (h : (l.hear w).wellFramed = true) : l.wellFramed = true := by
  obtain ⟨p, v⟩ := w
  rcases l with ⟨a, b, c, d, e, f⟩
  cases p
  · simp only [Listener.hear, Listener.edge] at h
    split at h
    · cases c with
      | none => simpa [Listener.rise, Listener.wellFramed] using h
      | some hh =>
        simp [Listener.rise, Listener.wellFramed, Hearing.sample] at h ⊢
        refine ⟨h.1, ?_⟩
        obtain ⟨-, h2⟩ := h
        split at h2
        · intro x
          simp [x] at h2
        · simpa using h2
    · simpa [Listener.wellFramed] using h
  · simp only [Listener.hear, Listener.edge] at h
    split at h
    · cases c with
      | none => simpa [Listener.startEdge, Listener.wellFramed] using h
      | some hh => simp [Listener.startEdge, Listener.wellFramed] at h
    · split at h
      · cases c with
        | none => simp [Listener.stopEdge, Listener.wellFramed] at h
        | some hh =>
          simp [Listener.stopEdge, Listener.wellFramed] at h ⊢
          refine ⟨⟨h.1, h.2.1⟩, ?_⟩
          have := h.2.2
          simp [Heard.wellFramed] at this
          exact this.1
      · simpa [Listener.wellFramed] using h

end Sys2Proof.Machine
end

