-- ==== Sys2Proof/Laws/State.lean ====
section
/-! SUPPORT. What each state update does to each field, so that no later proof unfolds a record update. -/

namespace Sys2Proof.Machine

/-! ### `State.record` -/

@[simp] theorem State.record_clk (s : State) (w : PinWrite) : (s.record w).clk = s.clk := rfl
@[simp] theorem State.record_dio (s : State) (w : PinWrite) : (s.record w).dio = s.dio := rfl
@[simp] theorem State.record_txn (s : State) (w : PinWrite) : (s.record w).txn = s.txn := rfl
@[simp] theorem State.record_fault (s : State) (w : PinWrite) : (s.record w).fault = s.fault := rfl
@[simp] theorem State.record_trace (s : State) (w : PinWrite) : (s.record w).trace = s.trace ++ [w] := rfl
@[simp] theorem State.record_seq (s : State) (w : PinWrite) : (s.record w).seq = s.seq := rfl
@[simp] theorem State.record_refused (s : State) (w : PinWrite) : (s.record w).refused = s.refused := rfl
@[simp] theorem State.record_replies (s : State) (w : PinWrite) : (s.record w).replies = s.replies := rfl
@[simp] theorem State.record_calls (s : State) (w : PinWrite) : (s.record w).calls = s.calls := rfl
@[simp] theorem State.record_answers (s : State) (w : PinWrite) : (s.record w).answers = s.answers := rfl
@[simp] theorem State.record_draws (s : State) (w : PinWrite) : (s.record w).draws = s.draws := rfl

/-! ### `State.setSeq` -/

@[simp] theorem State.setSeq_clk (s : State) (q : Seq) : (s.setSeq q).clk = s.clk := rfl
@[simp] theorem State.setSeq_dio (s : State) (q : Seq) : (s.setSeq q).dio = s.dio := rfl
@[simp] theorem State.setSeq_txn (s : State) (q : Seq) : (s.setSeq q).txn = s.txn := rfl
@[simp] theorem State.setSeq_fault (s : State) (q : Seq) : (s.setSeq q).fault = s.fault := rfl
@[simp] theorem State.setSeq_trace (s : State) (q : Seq) : (s.setSeq q).trace = s.trace := rfl
@[simp] theorem State.setSeq_seq (s : State) (q : Seq) : (s.setSeq q).seq = q := rfl
@[simp] theorem State.setSeq_refused (s : State) (q : Seq) : (s.setSeq q).refused = s.refused := rfl
@[simp] theorem State.setSeq_replies (s : State) (q : Seq) : (s.setSeq q).replies = s.replies := rfl
@[simp] theorem State.setSeq_calls (s : State) (q : Seq) : (s.setSeq q).calls = s.calls := rfl
@[simp] theorem State.setSeq_answers (s : State) (q : Seq) : (s.setSeq q).answers = s.answers := rfl
@[simp] theorem State.setSeq_draws (s : State) (q : Seq) : (s.setSeq q).draws = s.draws := rfl

/-! ### `State.setCalls` -/

@[simp] theorem State.setCalls_clk (s : State) (cs : List Call) : (s.setCalls cs).clk = s.clk := rfl
@[simp] theorem State.setCalls_dio (s : State) (cs : List Call) : (s.setCalls cs).dio = s.dio := rfl
@[simp] theorem State.setCalls_txn (s : State) (cs : List Call) : (s.setCalls cs).txn = s.txn := rfl
@[simp] theorem State.setCalls_fault (s : State) (cs : List Call) : (s.setCalls cs).fault = s.fault := rfl
@[simp] theorem State.setCalls_trace (s : State) (cs : List Call) : (s.setCalls cs).trace = s.trace := rfl
@[simp] theorem State.setCalls_seq (s : State) (cs : List Call) : (s.setCalls cs).seq = s.seq := rfl
@[simp] theorem State.setCalls_refused (s : State) (cs : List Call) : (s.setCalls cs).refused = s.refused := rfl
@[simp] theorem State.setCalls_replies (s : State) (cs : List Call) : (s.setCalls cs).replies = s.replies := rfl
@[simp] theorem State.setCalls_calls (s : State) (cs : List Call) : (s.setCalls cs).calls = cs := rfl
@[simp] theorem State.setCalls_answers (s : State) (cs : List Call) : (s.setCalls cs).answers = s.answers := rfl
@[simp] theorem State.setCalls_draws (s : State) (cs : List Call) : (s.setCalls cs).draws = s.draws := rfl

/-! ### `State.deliver` -/

@[simp] theorem State.deliver_clk (s : State) (r : Reply) : (s.deliver r).clk = s.clk := rfl
@[simp] theorem State.deliver_dio (s : State) (r : Reply) : (s.deliver r).dio = s.dio := rfl
@[simp] theorem State.deliver_txn (s : State) (r : Reply) : (s.deliver r).txn = s.txn := rfl
@[simp] theorem State.deliver_fault (s : State) (r : Reply) : (s.deliver r).fault = s.fault := rfl
@[simp] theorem State.deliver_trace (s : State) (r : Reply) : (s.deliver r).trace = s.trace := rfl
@[simp] theorem State.deliver_seq (s : State) (r : Reply) : (s.deliver r).seq = s.seq := rfl
@[simp] theorem State.deliver_refused (s : State) (r : Reply) : (s.deliver r).refused = s.refused := rfl
@[simp] theorem State.deliver_replies (s : State) (r : Reply) : (s.deliver r).replies = s.replies ++ [r] := rfl
@[simp] theorem State.deliver_calls (s : State) (r : Reply) : (s.deliver r).calls = s.calls := rfl
@[simp] theorem State.deliver_answers (s : State) (r : Reply) : (s.deliver r).answers = s.answers := rfl
@[simp] theorem State.deliver_draws (s : State) (r : Reply) : (s.deliver r).draws = s.draws := rfl

/-! ### `State.drawn` -/

@[simp] theorem State.drawn_clk (s : State) : (s.drawn).clk = s.clk := rfl
@[simp] theorem State.drawn_dio (s : State) : (s.drawn).dio = s.dio := rfl
@[simp] theorem State.drawn_txn (s : State) : (s.drawn).txn = s.txn := rfl
@[simp] theorem State.drawn_fault (s : State) : (s.drawn).fault = s.fault := rfl
@[simp] theorem State.drawn_trace (s : State) : (s.drawn).trace = s.trace := rfl
@[simp] theorem State.drawn_seq (s : State) : (s.drawn).seq = s.seq := rfl
@[simp] theorem State.drawn_refused (s : State) : (s.drawn).refused = s.refused := rfl
@[simp] theorem State.drawn_replies (s : State) : (s.drawn).replies = s.replies := rfl
@[simp] theorem State.drawn_calls (s : State) : (s.drawn).calls = s.calls := rfl
@[simp] theorem State.drawn_answers (s : State) : (s.drawn).answers = s.answers := rfl
@[simp] theorem State.drawn_draws (s : State) : (s.drawn).draws = s.draws + 1 := rfl

/-! ### `State.raiseFault` -/

@[simp] theorem State.raiseFault_clk (s : State) (c : FaultCause) : (s.raiseFault c).clk = s.clk := rfl
@[simp] theorem State.raiseFault_dio (s : State) (c : FaultCause) : (s.raiseFault c).dio = s.dio := rfl
@[simp] theorem State.raiseFault_txn (s : State) (c : FaultCause) : (s.raiseFault c).txn = s.txn := rfl
@[simp] theorem State.raiseFault_fault (s : State) (c : FaultCause) : (s.raiseFault c).fault = some c := rfl
@[simp] theorem State.raiseFault_trace (s : State) (c : FaultCause) : (s.raiseFault c).trace = s.trace := rfl
@[simp] theorem State.raiseFault_seq (s : State) (c : FaultCause) : (s.raiseFault c).seq = .idle := rfl
@[simp] theorem State.raiseFault_refused (s : State) (c : FaultCause) : (s.raiseFault c).refused = s.refused := rfl
@[simp] theorem State.raiseFault_replies (s : State) (c : FaultCause) : (s.raiseFault c).replies = s.replies ++ [.faulted c] := rfl
@[simp] theorem State.raiseFault_calls (s : State) (c : FaultCause) : (s.raiseFault c).calls = s.calls := rfl
@[simp] theorem State.raiseFault_answers (s : State) (c : FaultCause) : (s.raiseFault c).answers = s.answers := rfl
@[simp] theorem State.raiseFault_draws (s : State) (c : FaultCause) : (s.raiseFault c).draws = s.draws := rfl

/-! ### `State.refuse` -/

@[simp] theorem State.refuse_clk (s : State) (r : RefusalReason) : (s.refuse r).clk = s.clk := rfl
@[simp] theorem State.refuse_dio (s : State) (r : RefusalReason) : (s.refuse r).dio = s.dio := rfl
@[simp] theorem State.refuse_txn (s : State) (r : RefusalReason) : (s.refuse r).txn = s.txn := rfl
@[simp] theorem State.refuse_fault (s : State) (r : RefusalReason) : (s.refuse r).fault = s.fault := rfl
@[simp] theorem State.refuse_trace (s : State) (r : RefusalReason) : (s.refuse r).trace = s.trace := rfl
@[simp] theorem State.refuse_seq (s : State) (r : RefusalReason) : (s.refuse r).seq = s.seq := rfl
@[simp] theorem State.refuse_refused (s : State) (r : RefusalReason) : (s.refuse r).refused = true := rfl
@[simp] theorem State.refuse_replies (s : State) (r : RefusalReason) : (s.refuse r).replies = s.replies ++ [.refused r] := rfl
@[simp] theorem State.refuse_calls (s : State) (r : RefusalReason) : (s.refuse r).calls = s.calls := rfl
@[simp] theorem State.refuse_answers (s : State) (r : RefusalReason) : (s.refuse r).answers = s.answers := rfl
@[simp] theorem State.refuse_draws (s : State) (r : RefusalReason) : (s.refuse r).draws = s.draws := rfl

/-! ### `State.complete` -/

@[simp] theorem State.complete_clk (s : State) : (s.complete).clk = s.clk := rfl
@[simp] theorem State.complete_dio (s : State) : (s.complete).dio = s.dio := rfl
@[simp] theorem State.complete_txn (s : State) : (s.complete).txn = s.txn := rfl
@[simp] theorem State.complete_fault (s : State) : (s.complete).fault = s.fault := rfl
@[simp] theorem State.complete_trace (s : State) : (s.complete).trace = s.trace := rfl
@[simp] theorem State.complete_seq (s : State) : (s.complete).seq = .idle := rfl
@[simp] theorem State.complete_refused (s : State) : (s.complete).refused = s.refused := rfl
@[simp] theorem State.complete_replies (s : State) : (s.complete).replies = s.replies ++ [.ok .none] := rfl
@[simp] theorem State.complete_calls (s : State) : (s.complete).calls = s.calls := rfl
@[simp] theorem State.complete_answers (s : State) : (s.complete).answers = s.answers := rfl
@[simp] theorem State.complete_draws (s : State) : (s.complete).draws = s.draws := rfl

/-! ### `State.start` -/

@[simp] theorem State.start_clk (s : State) (job : Job) : (s.start job).clk = s.clk := rfl
@[simp] theorem State.start_dio (s : State) (job : Job) : (s.start job).dio = s.dio := rfl
@[simp] theorem State.start_txn (s : State) (job : Job) : (s.start job).txn = s.txn := rfl
@[simp] theorem State.start_fault (s : State) (job : Job) : (s.start job).fault = s.fault := rfl
@[simp] theorem State.start_trace (s : State) (job : Job) : (s.start job).trace = s.trace := rfl
@[simp] theorem State.start_seq (s : State) (job : Job) : (s.start job).seq = .running job 0 s.staleWork := rfl
@[simp] theorem State.start_refused (s : State) (job : Job) : (s.start job).refused = s.refused := rfl
@[simp] theorem State.start_replies (s : State) (job : Job) : (s.start job).replies = s.replies := rfl
@[simp] theorem State.start_calls (s : State) (job : Job) : (s.start job).calls = s.calls := rfl
@[simp] theorem State.start_answers (s : State) (job : Job) : (s.start job).answers = s.answers := rfl
@[simp] theorem State.start_draws (s : State) (job : Job) : (s.start job).draws = s.draws + 1 := rfl

/-! ### `State.openTxn` -/

@[simp] theorem State.openTxn_clk (s : State) : (s.openTxn).clk = s.clk := rfl
@[simp] theorem State.openTxn_dio (s : State) : (s.openTxn).dio = s.dio := rfl
@[simp] theorem State.openTxn_txn (s : State) : (s.openTxn).txn = true := rfl
@[simp] theorem State.openTxn_fault (s : State) : (s.openTxn).fault = s.fault := rfl
@[simp] theorem State.openTxn_trace (s : State) : (s.openTxn).trace = s.trace := rfl
@[simp] theorem State.openTxn_seq (s : State) : (s.openTxn).seq = s.seq := rfl
@[simp] theorem State.openTxn_refused (s : State) : (s.openTxn).refused = s.refused := rfl
@[simp] theorem State.openTxn_replies (s : State) : (s.openTxn).replies = s.replies := rfl
@[simp] theorem State.openTxn_calls (s : State) : (s.openTxn).calls = s.calls := rfl
@[simp] theorem State.openTxn_answers (s : State) : (s.openTxn).answers = s.answers := rfl
@[simp] theorem State.openTxn_draws (s : State) : (s.openTxn).draws = s.draws := rfl

/-! ### `State.closeTxn` -/

@[simp] theorem State.closeTxn_clk (s : State) : (s.closeTxn).clk = s.clk := rfl
@[simp] theorem State.closeTxn_dio (s : State) : (s.closeTxn).dio = s.dio := rfl
@[simp] theorem State.closeTxn_txn (s : State) : (s.closeTxn).txn = false := rfl
@[simp] theorem State.closeTxn_fault (s : State) : (s.closeTxn).fault = s.fault := rfl
@[simp] theorem State.closeTxn_trace (s : State) : (s.closeTxn).trace = s.trace := rfl
@[simp] theorem State.closeTxn_seq (s : State) : (s.closeTxn).seq = s.seq := rfl
@[simp] theorem State.closeTxn_refused (s : State) : (s.closeTxn).refused = s.refused := rfl
@[simp] theorem State.closeTxn_replies (s : State) : (s.closeTxn).replies = s.replies := rfl
@[simp] theorem State.closeTxn_calls (s : State) : (s.closeTxn).calls = s.calls := rfl
@[simp] theorem State.closeTxn_answers (s : State) : (s.closeTxn).answers = s.answers := rfl
@[simp] theorem State.closeTxn_draws (s : State) : (s.closeTxn).draws = s.draws := rfl

/-! ### `State.issue` -/

@[simp] theorem State.issue_clk (s : State) (r : Request) : (s.issue r).clk = s.clk := rfl
@[simp] theorem State.issue_dio (s : State) (r : Request) : (s.issue r).dio = s.dio := rfl
@[simp] theorem State.issue_txn (s : State) (r : Request) : (s.issue r).txn = s.txn := rfl
@[simp] theorem State.issue_fault (s : State) (r : Request) : (s.issue r).fault = s.fault := rfl
@[simp] theorem State.issue_trace (s : State) (r : Request) : (s.issue r).trace = s.trace := rfl
@[simp] theorem State.issue_seq (s : State) (r : Request) : (s.issue r).seq = s.seq := rfl
@[simp] theorem State.issue_refused (s : State) (r : Request) : (s.issue r).refused = s.refused := rfl
@[simp] theorem State.issue_replies (s : State) (r : Request) : (s.issue r).replies = s.replies := rfl
@[simp] theorem State.issue_calls (s : State) (r : Request) : (s.issue r).calls = ⟨some 0, r⟩ :: s.calls := rfl
@[simp] theorem State.issue_answers (s : State) (r : Request) : (s.issue r).answers = s.answers := rfl
@[simp] theorem State.issue_draws (s : State) (r : Request) : (s.issue r).draws = s.draws := rfl

/-! ### `State.setLine` -/

@[simp] theorem State.setLine_CLK_clk (s : State) (l : Option Bit) : (s.setLine .CLK l).clk = l := rfl
@[simp] theorem State.setLine_CLK_dio (s : State) (l : Option Bit) : (s.setLine .CLK l).dio = s.dio := rfl
@[simp] theorem State.setLine_DIO_clk (s : State) (l : Option Bit) : (s.setLine .DIO l).clk = s.clk := rfl
@[simp] theorem State.setLine_DIO_dio (s : State) (l : Option Bit) : (s.setLine .DIO l).dio = l := rfl
@[simp] theorem State.setLine_line (s : State) (p : Pin) (l : Option Bit) : (s.setLine p l).line p = l := by cases p <;> rfl
@[simp] theorem State.setLine_txn (s : State) (p : Pin) (l : Option Bit) : (s.setLine p l).txn = s.txn := by cases p <;> rfl
@[simp] theorem State.setLine_fault (s : State) (p : Pin) (l : Option Bit) : (s.setLine p l).fault = s.fault := by cases p <;> rfl
@[simp] theorem State.setLine_trace (s : State) (p : Pin) (l : Option Bit) : (s.setLine p l).trace = s.trace := by cases p <;> rfl
@[simp] theorem State.setLine_seq (s : State) (p : Pin) (l : Option Bit) : (s.setLine p l).seq = s.seq := by cases p <;> rfl
@[simp] theorem State.setLine_refused (s : State) (p : Pin) (l : Option Bit) : (s.setLine p l).refused = s.refused := by cases p <;> rfl
@[simp] theorem State.setLine_replies (s : State) (p : Pin) (l : Option Bit) : (s.setLine p l).replies = s.replies := by cases p <;> rfl
@[simp] theorem State.setLine_calls (s : State) (p : Pin) (l : Option Bit) : (s.setLine p l).calls = s.calls := by cases p <;> rfl
@[simp] theorem State.setLine_answers (s : State) (p : Pin) (l : Option Bit) : (s.setLine p l).answers = s.answers := by cases p <;> rfl
@[simp] theorem State.setLine_draws (s : State) (p : Pin) (l : Option Bit) : (s.setLine p l).draws = s.draws := by cases p <;> rfl

/-! ### `State.drive` -/

@[simp] theorem State.drive_clk_CLK (s : State) (v : Bit) : (s.drive (.CLK, v)).clk = some v := rfl
@[simp] theorem State.drive_dio_CLK (s : State) (v : Bit) : (s.drive (.CLK, v)).dio = s.dio := rfl
@[simp] theorem State.drive_clk_DIO (s : State) (v : Bit) : (s.drive (.DIO, v)).clk = s.clk := rfl
@[simp] theorem State.drive_dio_DIO (s : State) (v : Bit) : (s.drive (.DIO, v)).dio = some v := rfl
@[simp] theorem State.drive_txn (s : State) (w : PinWrite) : (s.drive w).txn = s.txn := by simp [State.drive]
@[simp] theorem State.drive_fault (s : State) (w : PinWrite) : (s.drive w).fault = s.fault := by simp [State.drive]
@[simp] theorem State.drive_trace (s : State) (w : PinWrite) : (s.drive w).trace = s.trace ++ [w] := by simp [State.drive]
@[simp] theorem State.drive_seq (s : State) (w : PinWrite) : (s.drive w).seq = s.seq := by simp [State.drive]
@[simp] theorem State.drive_refused (s : State) (w : PinWrite) : (s.drive w).refused = s.refused := by simp [State.drive]
@[simp] theorem State.drive_replies (s : State) (w : PinWrite) : (s.drive w).replies = s.replies := by simp [State.drive]
@[simp] theorem State.drive_calls (s : State) (w : PinWrite) : (s.drive w).calls = s.calls := by simp [State.drive]
@[simp] theorem State.drive_answers (s : State) (w : PinWrite) : (s.drive w).answers = s.answers := by simp [State.drive]
@[simp] theorem State.drive_draws (s : State) (w : PinWrite) : (s.drive w).draws = s.draws := by simp [State.drive]

/-! ### `State.answered` -/

@[simp] theorem State.answered_clk (s : State) : s.answered.clk = s.clk := by unfold State.answered; split <;> rfl
@[simp] theorem State.answered_dio (s : State) : s.answered.dio = s.dio := by unfold State.answered; split <;> rfl
@[simp] theorem State.answered_txn (s : State) : s.answered.txn = s.txn := by unfold State.answered; split <;> rfl
@[simp] theorem State.answered_fault (s : State) : s.answered.fault = s.fault := by unfold State.answered; split <;> rfl
@[simp] theorem State.answered_trace (s : State) : s.answered.trace = s.trace := by unfold State.answered; split <;> rfl
@[simp] theorem State.answered_seq (s : State) : s.answered.seq = s.seq := by unfold State.answered; split <;> rfl
@[simp] theorem State.answered_refused (s : State) : s.answered.refused = s.refused := by unfold State.answered; split <;> rfl
@[simp] theorem State.answered_replies (s : State) : s.answered.replies = s.replies := by unfold State.answered; split <;> rfl
@[simp] theorem State.answered_calls (s : State) : s.answered.calls = s.calls := by unfold State.answered; split <;> rfl
@[simp] theorem State.answered_answers (s : State) : s.answered.answers = s.answers.tail := by
  unfold State.answered; split <;> simp [*]
theorem State.answered_draws (s : State) : s.answered.draws = if s.answers = [] then s.draws + 1 else s.draws := by
  unfold State.answered; split <;> simp [*]
theorem State.nextAnswer_of_cons (s : State) {a : Bool} {rest : List Bool} (h : s.answers = a :: rest) : s.nextAnswer = a := by
  simp [State.nextAnswer, h]

/-! ### `State.afterWrite` -/

@[simp] theorem State.afterWrite_clk (s : State) (a : After) : (s.afterWrite a).clk = s.clk := by cases a <;> rfl
@[simp] theorem State.afterWrite_dio (s : State) (a : After) : (s.afterWrite a).dio = s.dio := by cases a <;> rfl
@[simp] theorem State.afterWrite_fault (s : State) (a : After) : (s.afterWrite a).fault = s.fault := by cases a <;> rfl
@[simp] theorem State.afterWrite_trace (s : State) (a : After) : (s.afterWrite a).trace = s.trace := by cases a <;> rfl
@[simp] theorem State.afterWrite_seq (s : State) (a : After) : (s.afterWrite a).seq = s.seq := by cases a <;> rfl
@[simp] theorem State.afterWrite_refused (s : State) (a : After) : (s.afterWrite a).refused = s.refused := by cases a <;> rfl
@[simp] theorem State.afterWrite_replies (s : State) (a : After) : (s.afterWrite a).replies = s.replies := by cases a <;> rfl
@[simp] theorem State.afterWrite_calls (s : State) (a : After) : (s.afterWrite a).calls = s.calls := by cases a <;> rfl
@[simp] theorem State.afterWrite_answers (s : State) (a : After) : (s.afterWrite a).answers = s.answers := by cases a <;> rfl
theorem State.afterWrite_txn (s : State) (a : After) :
    (s.afterWrite a).txn = match a with | .openTxn => true | .closeTxn => false | _ => s.txn := by cases a <;> rfl

end Sys2Proof.Machine
end

