-- ==== Sys2Proof/Laws/Ops.lean ====
section
/-! SUPPORT. What the shared operations can do, each said once: admission (R209), the precondition on `st.txn` (R206), the
answer to a pin write (R101), and the next call. -/

namespace Sys2Proof.Machine

theorem accept_ready {sel : Selector} {s : State} {body : Host.Outcome State Fault Refusal} (hf : s.fault = none)
    (hq : s.seq = .idle) : accept sel s body = body := by
  simp [accept, hf, hq]

theorem accept_faulted {sel : Selector} {s : State} {body : Host.Outcome State Fault Refusal} {c : FaultCause}
    (hf : s.fault = some c) : accept sel s body = .fault (.blockFaulted c) := by
  simp [accept, hf]

theorem accept_running {sel : Selector} {s : State} {body : Host.Outcome State Fault Refusal} {job : Job} {k : Nat}
    {w : Work} (hf : s.fault = none) (hq : s.seq = .running job k w) :
    accept sel s body = .next (s.refuse (.concurrentRequest sel)) := by
  simp [accept, hf, hq]

/-- R209 items 1 and 2: a next state means no fault, and either the block was busy and the request was refused, or it was
idle and the request had its own effect. -/
theorem accept_next {sel : Selector} {s t : State} {body : Host.Outcome State Fault Refusal}
    (h : accept sel s body = .next t) :
    s.fault = none ∧
      ((∃ job k w, s.seq = .running job k w ∧ t = s.refuse (.concurrentRequest sel)) ∨ (s.seq = .idle ∧ body = .next t)) := by
  unfold accept at h
  split at h
  · cases h
  · rename_i hf
    refine ⟨hf, ?_⟩
    split at h
    · rename_i job k w hq
      cases h
      exact .inl ⟨job, k, w, hq, rfl⟩
    · exact .inr ⟨‹_›, h⟩

/-- R206: the precondition holds and the operation goes on, or it faults with ProtocolMisuse. -/
theorem requireTxn_next {op : Op} {needed : Bool} {s t u : State} (h : requireTxn op needed s t = .next u) :
    (s.txn = needed ∧ u = t) ∨ (s.txn ≠ needed ∧ u = s.raiseFault (.protocolMisuse op)) := by
  unfold requireTxn at h
  split at h <;> cases h
  · exact .inl ⟨‹_›, rfl⟩
  · exact .inr ⟨‹_›, rfl⟩

theorem requireTxn_held {op : Op} {needed : Bool} {s t : State} (h : s.txn = needed) :
    requireTxn op needed s t = .next t := by
  simp [requireTxn, h]

theorem requireTxn_broken {op : Op} {needed : Bool} {s t : State} (h : s.txn ≠ needed) :
    requireTxn op needed s t = .next (s.raiseFault (.protocolMisuse op)) := by
  simp [requireTxn, h]

/-- The next call, when one is taken: it was the first, and it was due. -/
theorem takeCall_some {s t : State} {r : Request} (h : s.takeCall = some (r, t)) :
    ∃ c rest, s.calls = c :: rest ∧ c.due s.seq = true ∧ r = c.request ∧ t = s.setCalls rest := by
  unfold State.takeCall at h
  split at h
  · cases h
  · rename_i c rest hc
    split at h
    · cases h
      exact ⟨c, rest, hc, ‹_›, rfl, rfl⟩
    · cases h

/-- A call that is due is taken. -/
theorem takeCall_due {s : State} {c : Call} {rest : List Call} (hc : s.calls = c :: rest) (hd : c.due s.seq = true) :
    s.takeCall = some (c.request, s.setCalls rest) := by
  simp [State.takeCall, hc, hd, State.setCalls]

/-- A first call that is not due waits. -/
theorem takeCall_waits {s : State} (h : ∀ c ∈ s.calls.head?, c.due s.seq = false) : s.takeCall = none := by
  unfold State.takeCall
  split
  · rfl
  · rename_i c rest hc
    simp [hc] at h
    simp [h]

end Sys2Proof.Machine
end

