-- ==== Sys2Proof/Laws/Sequencer.lean ====
section
/-! SUPPORT. What a micro-step can do, said once (R100, R101), and the lengths of the waveforms (R108). -/

namespace Sys2Proof.Machine

/-- R100: a successful micro-step. -/
theorem perform_ok {s : State} {job : Job} {k : Nat} {w : Work} {m : Micro} (h : s.nextAnswer = true) :
    s.perform job k w m =
      ((s.answered.drive (m.pin, m.levelOf (m.loaded w))).afterWrite m.after).advance job k
        ((s.answered.drive (m.pin, m.levelOf (m.loaded w))).workAfter (m.loaded w) m.after) := by
  simp [State.perform, h]

/-- R101: a failed micro-step. -/
theorem perform_fails {s : State} {job : Job} {k : Nat} {w : Work} {m : Micro} (h : s.nextAnswer = false) :
    s.perform job k w m =
      (s.answered.setLine m.pin none).raiseFault (.pinWriteFailure m.pin (m.levelOf (m.loaded w)) job.op k) := by
  simp [State.perform, h]

/-- R31: what `advance` can do: the next position, or completion. -/
theorem advance_cases (s : State) (job : Job) (k : Nat) (w : Work) :
    (k + 1 < job.program.length ∧ s.advance job k w = s.setSeq (.running job (k + 1) w)) ∨
      (job.program.length ≤ k + 1 ∧ s.advance job k w = s.complete) := by
  unfold State.advance
  split
  · exact .inl ⟨‹_›, rfl⟩
  · exact .inr ⟨by omega, rfl⟩

theorem microStep_idle {s : State} (h : s.seq = .idle) : microStep s = s := by simp [microStep, h]

theorem microStep_running {s : State} {job : Job} {k : Nat} {w : Work} {m : Micro} (hq : s.seq = .running job k w)
    (hm : job.program[k]? = some m) : microStep s = s.perform job k w m := by
  simp [microStep, hq, hm]

/-- Everything a micro-step can do: nothing on an idle block; a write performed; a write failed; and, past the end of the
program, completion. -/
theorem microStep_cases (s : State) :
    (s.seq = .idle ∧ microStep s = s) ∨
      (∃ job k w, s.seq = .running job k w ∧ job.program[k]? = none ∧ microStep s = s.complete) ∨
      (∃ job k w m, s.seq = .running job k w ∧ job.program[k]? = some m ∧ s.nextAnswer = true ∧
        microStep s =
          ((s.answered.drive (m.pin, m.levelOf (m.loaded w))).afterWrite m.after).advance job k
            ((s.answered.drive (m.pin, m.levelOf (m.loaded w))).workAfter (m.loaded w) m.after)) ∨
      (∃ job k w m, s.seq = .running job k w ∧ job.program[k]? = some m ∧ s.nextAnswer = false ∧
        microStep s =
          (s.answered.setLine m.pin none).raiseFault (.pinWriteFailure m.pin (m.levelOf (m.loaded w)) job.op k)) := by
  cases hq : s.seq with
  | idle => exact .inl ⟨rfl, microStep_idle hq⟩
  | running job k w =>
    cases hm : job.program[k]? with
    | none => exact .inr (.inl ⟨job, k, w, rfl, hm, by simp [microStep, hq, hm]⟩)
    | some m =>
      rw [microStep_running hq hm]
      cases ha : s.nextAnswer with
      | true => exact .inr (.inr (.inl ⟨job, k, w, m, rfl, hm, rfl, perform_ok ha⟩))
      | false => exact .inr (.inr (.inr ⟨job, k, w, m, rfl, hm, rfl, perform_fails ha⟩))

theorem wSend_length (b : Byte) : (wSend b).length = 27 := rfl

theorem microSend_length (b : Byte) : (microSend b).length = 27 := rfl

/-- A transaction's sub-operations drive its waveform (R105). -/
theorem txnOps_waveform (bs : List Byte) : (txnOps bs).flatMap SubOp.waveform = wTxn bs := by
  simp [txnOps, wTxn, SubOp.waveform, List.flatMap_map]

/-- A job's waveform is that of its sub-operations, in order. -/
theorem waveform_subOps (job : Job) : job.waveform = job.subOps.flatMap SubOp.waveform := by
  cases job <;> simp [Job.waveform, Job.subOps, SubOp.waveform, frameOps, wSet, txnOps_waveform]

theorem subOp_program_length (o : SubOp) : o.program.length = o.waveform.length := by cases o <;> rfl

/-- A job's program has one entry per write of its waveform. -/
theorem program_length (job : Job) : job.program.length = job.waveform.length := by
  simp [waveform_subOps, Job.program, List.length_flatMap, subOp_program_length]

/-- R108: a transaction of n bytes has 8 + 27n writes. -/
theorem wTxn_length (bs : List Byte) : (wTxn bs).length = 8 + 27 * bs.length := by
  induction bs with
  | nil => rfl
  | cons b bs ih =>
    simp [wTxn, wSend_length, wBegin, wEnd] at ih ⊢
    omega

end Sys2Proof.Machine
end

