-- ==== Sys2Proof/Laws/Step.lean ====
section
/-! SUPPORT. What `exec` and `step` can do, said once: the cases every invariant is derived from. -/

namespace Sys2Proof.Machine

/-- The bus operation an instruction launches and the value of `st.txn` it needs (R206). -/
def launches : Instr → Job → Bool → Prop
  | .beginTxn, job, n => job = .beginTxn ∧ n = false
  | .sendByte b, job, n => job = .sendByte b ∧ n = true
  | .endTxn, job, n => job = .endTxn ∧ n = true
  | .setDisplay x c b, job, n => job = .setDisplay ⟨x, c, b⟩ ∧ n = false
  | .cmdModeAutoinc, job, n => job = .sendByte modeByte ∧ n = true
  | .cmdAddr0, job, n => job = .sendByte addrByte ∧ n = true
  | .cmdDisplayOn b, job, n => job = .sendByte (ctrlByte b) ∧ n = true
  | .dataSegment x y, job, n => job = .sendByte (segmentByte x y) ∧ n = true
  | _, _, _ => False

/-- The refusals an instruction's own effect can be (R73; log entry 12 for the wire rows). -/
def refuses : Instr → RefusalReason → Prop
  | .reserved op, r => r = .reservedOp op
  | .cmdModeAutoinc, r => r = .misplacedByte modeByte
  | .cmdAddr0, r => r = .misplacedByte addrByte
  | .cmdDisplayOn b, r => r = .misplacedByte (ctrlByte b)
  | .dataSegment x y, r => r = .misplacedByte (segmentByte x y)
  | _, _ => False

/-- R81: the place of a command byte. -/
theorem commandPlace_iff (sent : Option (List Byte)) : commandPlace sent = true ↔ sent = some [] := by
  rcases sent with _ | _ | _ <;> simp [commandPlace]

/-- R81, R85: the place of a segment byte. -/
theorem dataPlace_iff (sent : Option (List Byte)) :
    dataPlace sent = true ↔ ∃ rest, rest.length < 4 ∧ sent = some (addrByte :: rest) := by
  rcases sent with _ | _ | ⟨b, rest⟩ <;> simp [dataPlace]
  exact and_comm

/-- A wire row's meaning: the place decides between SEND_BYTE's launch and a refusal. -/
theorem sendWireByte_next {inPlace : Bool} {b : Byte} {s t : State} (hf : s.fault = none) (hq : s.seq = .idle)
    (h : sendWireByte inPlace b s = .next t) :
    t = s.raiseFault (.protocolMisuse .sendByte) ∨
      (s.txn = true ∧ ((inPlace = true ∧ t = s.launch (.sendByte b)) ∨ (inPlace = false ∧ t = s.refuse (.misplacedByte b)))) := by
  rw [sendWireByte, accept_ready hf hq] at h
  obtain ⟨hn, rfl⟩ | ⟨-, rfl⟩ := requireTxn_next h
  · cases inPlace
    · exact .inr ⟨hn, .inr ⟨rfl, rfl⟩⟩
    · exact .inr ⟨hn, .inl ⟨rfl, rfl⟩⟩
  · exact .inl rfl

/-- The update a display request stands before once it is validated (R170, R171). -/
def validates : Instr → Job → Prop
  | .showInt v c b, job =>
    ∃ x, intSlots Config.cfg v = .ok x ∧ job = .showInt ⟨x, c, reduce Config.cfg.brightnessReduce b⟩
  | .showStr str c b, job =>
    ∃ x, strSlots Config.cfg str = .ok x ∧ job = .showStr ⟨x, c, reduce Config.cfg.brightnessReduce b⟩
  | _, _ => False

/-- Everything `exec` can do when it answers a next state: refuse a request while one is running; deliver an encoder's
result or a range error; fault with ProtocolMisuse; launch a bus operation; accept a validated display request; refuse a
reserved selector or a wire byte out of its place. -/
theorem exec_next {i : Instr} {s t : State} (h : exec i s = .next t) :
    s.fault = none ∧
      ((∃ job k w, s.seq = .running job k w ∧ t = s.refuse (.concurrentRequest i.selector)) ∨
        (s.seq = .idle ∧
          ((∃ r, t = s.deliver r) ∨ (∃ op, t = s.raiseFault (.protocolMisuse op)) ∨
            (∃ job n, launches i job n ∧ s.txn = n ∧ t = s.launch job) ∨
            (∃ job, validates i job ∧ s.txn = false ∧ t = s.start job) ∨
            (∃ r, refuses i r ∧ t = s.refuse r)))) := by
  cases i <;> obtain ⟨hf, hr | ⟨hq, hb⟩⟩ := accept_next h
  all_goals first
    | exact ⟨hf, .inl hr⟩
    | refine ⟨hf, .inr ⟨hq, ?_⟩⟩
  case beginTxn | sendByte | endTxn | setDisplay =>
    obtain ⟨hn, rfl⟩ | ⟨-, rfl⟩ := requireTxn_next hb
    · exact .inr (.inr (.inl ⟨_, _, ⟨rfl, rfl⟩, hn, rfl⟩))
    · exact .inr (.inl ⟨_, rfl⟩)
  case cmdModeAutoinc | cmdAddr0 | cmdDisplayOn | dataSegment =>
    obtain rfl | ⟨hn, ⟨-, rfl⟩ | ⟨-, rfl⟩⟩ := sendWireByte_next hf hq h
    · exact .inr (.inl ⟨_, rfl⟩)
    · exact .inr (.inr (.inl ⟨_, _, ⟨rfl, rfl⟩, hn, rfl⟩))
    · exact .inr (.inr (.inr (.inr ⟨_, rfl, rfl⟩)))
  case encodeChar | encodeInt | encodeStr =>
    cases hb
    exact .inl ⟨_, rfl⟩
  case showInt v c b =>
    unfold showSlots at hb
    split at hb
    · cases hb
      exact .inl ⟨_, rfl⟩
    · rename_i x hx
      obtain ⟨hn, rfl⟩ | ⟨-, rfl⟩ := requireTxn_next hb
      · exact .inr (.inr (.inr (.inl ⟨_, ⟨x, hx, rfl⟩, hn, rfl⟩)))
      · exact .inr (.inl ⟨_, rfl⟩)
  case showStr str c b =>
    unfold showSlots at hb
    split at hb
    · cases hb
      exact .inl ⟨_, rfl⟩
    · rename_i x hx
      obtain ⟨hn, rfl⟩ | ⟨-, rfl⟩ := requireTxn_next hb
      · exact .inr (.inr (.inr (.inl ⟨_, ⟨x, hx, rfl⟩, hn, rfl⟩)))
      · exact .inr (.inl ⟨_, rfl⟩)
  case reserved op =>
    cases hb
    exact .inr (.inr (.inr (.inr ⟨_, rfl, rfl⟩)))

/-- Everything `step` can do when it answers a next state: the micro-step of a block no call is due to, or the execution of
the call that is due. -/
theorem step_next {s t : State} (h : step s = .next t) :
    s.fault = none ∧
      ((s.takeCall = none ∧ t = microStep s) ∨
        (∃ c rest, s.calls = c :: rest ∧ c.due s.seq = true ∧
          exec (decodeRequest c.request) (s.setCalls rest) = .next t)) := by
  unfold step at h
  split at h
  · cases h
  · rename_i hf
    refine ⟨hf, ?_⟩
    split at h
    · cases h
      exact .inl ⟨‹_›, rfl⟩
    · rename_i w s' hc
      obtain ⟨c, rest, hcs, hd, rfl, rfl⟩ := takeCall_some hc
      exact .inr ⟨c, rest, hcs, hd, h⟩

/-- A request that is due is executed. -/
theorem step_due {s : State} {c : Call} {rest : List Call} {i : Instr} (hf : s.fault = none) (hc : s.calls = c :: rest)
    (hd : c.due s.seq = true) (hi : decodeRequest c.request = i) : step s = exec i (s.setCalls rest) := by
  simp [step, hf, takeCall_due hc hd, hi]

/-- With no call due, a step is a micro-step. -/
theorem step_micro {s : State} (hf : s.fault = none) (hc : s.takeCall = none) : step s = .next (microStep s) := by
  simp [step, hf, hc]

end Sys2Proof.Machine
end

