-- ==== Sys2Proof/Laws/Micro.lean ====
section
/-! SUPPORT. The micro-program of an operation and its waveform, entry by entry (R100 to R105), and what a micro-step of a
coherent block does. The provers cite `micro_of_waveform`, `microStep_ok` and `microStep_coherent` instead of unfolding the
programs. -/

namespace Sys2Proof.Machine

theorem sendingAt_zero (ops : List SubOp) (b : Byte) (j : Nat) (h : sendingAt ops 0 = some (b, j)) : j = 0 := by
  cases ops with
  | nil => simp [sendingAt] at h
  | cons o _ => cases o <;> simp [sendingAt] at h; omega

/-- Before an operation's first write its working registers are free. -/
theorem workMatches_zero (ops : List SubOp) (w : Work) : workMatches ops 0 w := by
  unfold workMatches
  split
  · trivial
  · exact .inl (sendingAt_zero _ _ _ ‹_›)

/-- What entry k of a program is for: it drives entry k of the waveform, given working registers that match, and leaves
working registers that match. -/
def MicroFits (ops : List SubOp) (k : Nat) (m : Micro) : Prop :=
  ∃ v, (ops.flatMap SubOp.waveform)[k]? = some (m.pin, v) ∧
    (∀ w, workMatches ops k w → m.levelOf (m.loaded w) = v) ∧
    (∀ w s, workMatches ops k w → workMatches ops (k + 1) (State.workAfter s (m.loaded w) m.after))

/-- R103, entry by entry. -/
theorem microSend_fits (b : Byte) (rest : List SubOp) (k : Nat) (hk : k < 27) (m : Micro)
    (hm : (microSend b)[k]? = some m) : MicroFits (.send b :: rest) k m := by
  have hend : ∀ w, workMatches (.send b :: rest) 27 w := by
    intro w
    have := workMatches_zero rest w
    simpa [workMatches, sendingAt] using this
  have hw : ((SubOp.send b :: rest).flatMap SubOp.waveform)[k]? = (wSend b)[k]? := by
    simp only [List.flatMap_cons, SubOp.waveform]
    rw [List.getElem?_append_left]
    rw [wSend_length]
    exact hk
  unfold MicroFits
  rw [hw]
  by_cases h26 : k = 26
  · subst h26
    simp [microSend, microBit, microRelease] at hm
    subst hm
    exact ⟨true, by simp [wSend, wBit], fun _ _ => rfl, fun _ _ _ => hend _⟩
  · have h27 : k < 26 := by omega
    have e0 : sendingAt (.send b :: rest) k = some (b, k) := by simp [sendingAt, hk]
    have e1 : sendingAt (.send b :: rest) (k + 1) = some (b, k + 1) := by simp [sendingAt]; omega
    simp only [workMatches, e0, e1]
    clear e0 e1 hend hw hk
    interval_cases k <;> simp [microSend, microBit, microRelease] at hm <;> subst hm <;>
      simp [wSend, wBit, Micro.levelOf, Micro.loaded, State.workAfter, Work.shifted]
    all_goals first
      | (intro w h1 h2; rw [h1]; simp)
      | (intro w h1 h2; rw [h1])
      | (intro w s h1 h2
         refine ⟨by rw [h1]; try rw [← BitVec.shiftRight_add], ?_⟩
         have h3 : (w.bc + 1).val = (w.bc.val + 1) % 9 := Fin.val_add _ _
         simp [h2, h3])

/-- R102 and R104, entry by entry. -/
theorem microFrame_fits (o : SubOp) (ho : o = .opening ∨ o = .closing) (rest : List SubOp) (k : Nat) (hk : k < 4)
    (m : Micro) (hm : o.program[k]? = some m) : MicroFits (o :: rest) k m := by
  have hfree : ∀ w j, j ≤ 4 → workMatches (o :: rest) j w := by
    intro w j hj
    rcases Nat.lt_or_eq_of_le hj with h | rfl
    · obtain rfl | rfl := ho <;> simp [workMatches, sendingAt, h]
    · have := workMatches_zero rest w
      obtain rfl | rfl := ho <;> simpa [workMatches, sendingAt] using this
  unfold MicroFits
  obtain rfl | rfl := ho
  all_goals
    simp only [List.flatMap_cons, SubOp.waveform]
    interval_cases k <;> simp [SubOp.program, microBegin, microEnd] at hm <;> subst hm <;>
      refine ⟨_, rfl, ?_, ?_⟩ <;> intros <;> first | rfl | exact hfree _ _ (by omega)

/-- Every entry of every program fits its waveform. -/
theorem micro_fits (ops : List SubOp) (k : Nat) (m : Micro) (h : (ops.flatMap SubOp.program)[k]? = some m) :
    MicroFits ops k m := by
  induction ops generalizing k with
  | nil => simp at h
  | cons o rest ih =>
    simp only [List.flatMap_cons] at h
    by_cases hk : k < o.program.length
    · rw [List.getElem?_append_left hk] at h
      cases o with
      | opening => exact microFrame_fits _ (.inl rfl) rest k hk m h
      | send b => exact microSend_fits b rest k hk m h
      | closing => exact microFrame_fits _ (.inr rfl) rest k hk m h
    · have hk' : o.program.length ≤ k := by omega
      rw [List.getElem?_append_right hk'] at h
      obtain ⟨v, hv, hl, hs⟩ := ih _ h
      have sa : ∀ i, sendingAt (o :: rest) (o.program.length + i) = sendingAt rest i := by
        intro i
        cases o <;> simp [sendingAt, SubOp.program, microBegin, microEnd, microSend_length]
      have wo : ∀ i w, workMatches (o :: rest) (o.program.length + i) w ↔ workMatches rest i w := by
        intro i w
        simp [workMatches, sa]
      obtain ⟨i, rfl⟩ := Nat.exists_eq_add_of_le hk'
      simp only [Nat.add_sub_cancel_left] at *
      refine ⟨v, ?_, fun w hw => hl w ((wo i w).1 hw), fun w s hw => ?_⟩
      · simp only [List.flatMap_cons]
        rw [List.getElem?_append_right (by rw [subOp_program_length]; omega), ← subOp_program_length]
        simpa using hv
      · rw [Nat.add_assoc]
        exact (wo (i + 1) _).2 (hs w s ((wo i w).1 hw))

/-- In a coherent block the running operation's next entry drives the waveform's. -/
theorem micro_of_waveform {s : State} {job : Job} {k : Nat} {w : Work} {p : Pin} {v : Bit} (hc : s.Coherent)
    (hq : s.seq = .running job k w) (hw : job.waveform[k]? = some (p, v)) :
    ∃ m, job.program[k]? = some m ∧ m.pin = p ∧ m.levelOf (m.loaded w) = v ∧
      ∀ s', workMatches job.subOps (k + 1) (State.workAfter s' (m.loaded w) m.after) := by
  have hk : k < job.program.length := by
    rw [program_length]
    exact (List.getElem?_eq_some_iff.1 hw).1
  have hm : job.program[k]? = some job.program[k] := List.getElem?_eq_getElem hk
  obtain ⟨v', hv', hl, hs⟩ := micro_fits job.subOps k _ hm
  rw [← waveform_subOps, hw] at hv'
  cases hv'
  have hwk : workMatches job.subOps k w := by
    have := hc.2.2
    simpa [State.WorkInv, hq, workMatches] using this
  exact ⟨_, hm, rfl, hl w hwk, fun s' => hs w s' hwk⟩

/-- Opening is C0, the last entry of a WBEGIN in the program; closing is D1, the last entry of a WEND (R102, R104). -/
theorem after_of_program (ops : List SubOp) (k : Nat) (m : Micro) (h : (ops.flatMap SubOp.program)[k]? = some m) :
    (m.after = .openTxn → m.pin = .CLK ∧ m.level = .const false ∧ ∃ pre post, ops = pre ++ .opening :: post ∧
        k + 1 = (pre.flatMap SubOp.waveform ++ wBegin).length) ∧
      (m.after = .closeTxn → m.pin = .DIO ∧ m.level = .const true ∧ ∃ pre post, ops = pre ++ .closing :: post ∧
        k + 1 = (pre.flatMap SubOp.waveform ++ wEnd).length) := by
  induction ops generalizing k with
  | nil => simp at h
  | cons o rest ih =>
    simp only [List.flatMap_cons] at h
    by_cases hk : k < o.program.length
    · rw [List.getElem?_append_left hk] at h
      cases o with
      | opening =>
        simp [SubOp.program, microBegin] at hk h
        interval_cases k <;> simp at h <;> subst h <;> simp
        exact ⟨[], ⟨rest, rfl⟩, rfl⟩
      | closing =>
        simp [SubOp.program, microEnd] at hk h
        interval_cases k <;> simp at h <;> subst h <;> simp
        exact ⟨[], ⟨rest, rfl⟩, rfl⟩
      | send b =>
        have hm := List.mem_of_getElem? h
        simp [SubOp.program, microSend, microBit, microRelease] at hm
        rcases hm with rfl | rfl | rfl | rfl | rfl | rfl | rfl | rfl | rfl | rfl | rfl | rfl | rfl | rfl | rfl | rfl | rfl
          | rfl | rfl | rfl | rfl | rfl | rfl | rfl | rfl | rfl | rfl <;> simp
    · have hk' : o.program.length ≤ k := by omega
      rw [List.getElem?_append_right hk'] at h
      have hl := subOp_program_length o
      obtain ⟨h1, h2⟩ := ih _ h
      refine ⟨fun ha => ?_, fun ha => ?_⟩
      · obtain ⟨hp, hv, pre, post, e, he⟩ := h1 ha
        refine ⟨hp, hv, o :: pre, post, by simp [e], ?_⟩
        simp at he ⊢
        omega
      · obtain ⟨hp, hv, pre, post, e, he⟩ := h2 ha
        refine ⟨hp, hv, o :: pre, post, by simp [e], ?_⟩
        simp at he ⊢
        omega

/-- `st.txn` after a completed write. -/
def txnAfter (t : Bool) : After → Bool
  | .nothing => t
  | .shift => t
  | .sendDone => t
  | .openTxn => true
  | .closeTxn => false

/-- Everything a successful micro-step of a coherent block does: write (p, v), entry k of its waveform. -/
structure Performed (s t : State) (job : Job) (k : Nat) (m : Micro) (p : Pin) (v : Bit) : Prop where
  lines : (t.clk, t.dio) = driveLines (s.clk, s.dio) [(p, v)]
  trace : t.trace = s.trace ++ [(p, v)]
  txn : t.txn = txnAfter s.txn m.after
  fault : t.fault = none
  refused : t.refused = s.refused
  calls : t.calls = s.calls
  answers : t.answers = s.answers.tail
  draws : t.draws = s.answered.draws + (if m.after = .sendDone then 1 else 0)
  goesOn : k + 1 < job.program.length → (∃ w', t.seq = .running job (k + 1) w') ∧ t.replies = s.replies
  ends : k + 1 = job.program.length → t.seq = .idle ∧ t.replies = s.replies ++ [.ok .none]
  coherent : t.Coherent

theorem coherent_of_idle {s : State} (hq : s.seq = .idle) : s.Coherent := by
  simp [State.Coherent, State.SeqInv, State.FaultInv, State.WorkInv, hq]

/-- An accepted operation is coherent. -/
theorem coherent_start (s : State) (job : Job) (hf : s.fault = none) : (s.start job).Coherent := by
  refine ⟨?_, ?_, ?_⟩
  · simp [State.SeqInv]
    cases job <;> simp [Job.waveform, wBegin, wSend, wEnd, wSet, wTxn, wBit]
  · simp [State.FaultInv, hf]
  · simpa [State.WorkInv, workMatches] using workMatches_zero job.subOps s.staleWork

/-- A step that changes neither the sequencer nor the fault record keeps coherence. -/
theorem coherent_of_same {s t : State} (h : s.Coherent) (hq : t.seq = s.seq) (hf : t.fault = s.fault) : t.Coherent := by
  simpa [State.Coherent, State.SeqInv, State.FaultInv, State.WorkInv, hq, hf] using h

/-- R100. -/
theorem microStep_ok {s : State} {job : Job} {k : Nat} {w : Work} {p : Pin} {v : Bit} (hc : s.Coherent)
    (hf : s.fault = none) (hq : s.seq = .running job k w) (hw : job.waveform[k]? = some (p, v))
    (ha : s.nextAnswer = true) : ∃ m, job.program[k]? = some m ∧ Performed s (microStep s) job k m p v := by
  obtain ⟨m, hm, rfl, rfl, hs⟩ := micro_of_waveform hc hq hw
  refine ⟨m, hm, ?_⟩
  rw [microStep_running hq hm, perform_ok ha]
  have hs' := hs (s.answered.drive (m.pin, m.levelOf (m.loaded w)))
  have hk : k < job.program.length := (List.getElem?_eq_some_iff.1 hm).1
  generalize (s.answered.drive (m.pin, m.levelOf (m.loaded w))).workAfter (m.loaded w) m.after = w' at *
  have hl : ((s.answered.drive (m.pin, m.levelOf (m.loaded w))).clk,
      (s.answered.drive (m.pin, m.levelOf (m.loaded w))).dio) =
        driveLines (s.clk, s.dio) [(m.pin, m.levelOf (m.loaded w))] := by
    cases h : m.pin <;> simp [driveLines, State.drive, State.setLine, State.record]
  have htxn : ∀ (u : State) (a : After), (u.afterWrite a).txn = txnAfter u.txn a := by
    intro u a
    cases a <;> rfl
  have hdr : ∀ (u : State) (a : After), (u.afterWrite a).draws = u.draws + if a = .sendDone then 1 else 0 := by
    intro u a
    cases a <;> rfl
  rcases advance_cases ((s.answered.drive (m.pin, m.levelOf (m.loaded w))).afterWrite m.after) job k w' with
    ⟨h, e⟩ | ⟨h, e⟩ <;> rw [e]
  · constructor <;> try simp [hf, htxn, hdr]
    · simpa using hl
    · intro h'
      omega
    · refine ⟨?_, ?_, ?_⟩
      · simpa [State.SeqInv, ← program_length] using h
      · simp [State.FaultInv, hf]
      · simpa [State.WorkInv, workMatches] using hs'
  · constructor <;> try simp [hf, htxn, hdr]
    · simpa using hl
    · omega
    · exact coherent_of_idle rfl

/-- A micro-step keeps coherence, whatever the platform answers. -/
theorem microStep_coherent {s : State} (h : s.Coherent) (hf : s.fault = none) : (microStep s).Coherent := by
  rcases microStep_cases s with ⟨-, e⟩ | ⟨job, k, w, hq, hm, e⟩ | ⟨job, k, w, m, hq, hm, ha, e⟩ |
    ⟨job, k, w, m, hq, hm, ha, e⟩
  · rw [e]
    exact h
  · rw [e]
    exact coherent_of_idle rfl
  · have hk : k < job.waveform.length := by
      rw [← program_length]
      exact (List.getElem?_eq_some_iff.1 hm).1
    have hw : job.waveform[k]? = some ((job.waveform[k]).1, (job.waveform[k]).2) := List.getElem?_eq_getElem hk
    obtain ⟨_, -, hp⟩ := microStep_ok h hf hq hw ha
    exact hp.coherent
  · rw [e]
    exact coherent_of_idle rfl

/-- Callers who keep R221 are never due while an operation runs. -/
theorem takeCall_none_of_dutiful {s : State} {job : Job} {k : Nat} {w : Work} (h : dutiful s.calls = true)
    (hq : s.seq = .running job k w) : s.takeCall = none := by
  apply takeCall_waits
  intro c hc
  have := List.all_eq_true.1 h c (List.mem_of_mem_head? hc)
  simp at this
  simp [Call.due, hq, this]

theorem driveLines_append (l : Option Bit × Option Bit) (a b : List PinWrite) :
    driveLines l (a ++ b) = driveLines (driveLines l a) b := by
  simp [driveLines]

/-- A transaction leaves both lines at 1 (R104, R109). -/
theorem driveLines_wTxn (l : Option Bit × Option Bit) (bs : List Byte) :
    driveLines l (wTxn bs) = (some true, some true) := by
  unfold wTxn
  rw [driveLines_append]
  simp [driveLines, wEnd]

/-- One more step of a run. -/
theorem run_succ {s t : State} (n : Nat) (h : step s = .next t) :
    Host.Core.run Sys2Proof.core (n + 1) s = Host.Core.run Sys2Proof.core n t := by
  have h' : Sys2Proof.core.step s = .next t := h
  simp only [Host.Core.run, h']

/-- R208: a faulted block runs no further. -/
theorem run_faulted {s t : State} {c : FaultCause} (n : Nat) (h : s.fault = some c)
    (hr : Host.Core.run Sys2Proof.core n s = .next t) : n = 0 ∧ t = s := by
  cases n with
  | zero =>
    cases hr
    exact ⟨rfl, rfl⟩
  | succ n =>
    have hs : step s = .fault (.blockFaulted c) := by simp [step, h]
    have : Sys2Proof.core.step s = .fault (.blockFaulted c) := hs
    simp only [Host.Core.run, this] at hr
    cases hr

end Sys2Proof.Machine
end

