-- ==== Sys2Proof/Laws/PerInstr.lean ====
section
/-! SUPPORT. Per-instruction laws over the syntax. Family TableRow: the code word of a well-formed instruction matches a row of
spec/opcode_table.json that carries its mnemonic. -/

/-- The encoded instruction matches a row of its own mnemonic. -/
def Sys2Proof.Laws.TableRow.Statement (i : Sys2Proof.Instr) : Prop :=
  i.wellFormed = true →
    ∃ row ∈ Sys2Proof.opcodeTable, row.mnemonic = i.mnemonic ∧ row.matches (Sys2Proof.encode i) = true

open Sys2Proof Sys2Proof.Laws.TableRow

/-- A request record matches a row by its selector alone. -/
theorem Sys2Proof.Laws.row_matches_req {row : Row} {r : Request} (sel : Selector) (hf : row.format = .REQ)
    (hs : r.op = sel) (hb : Nat.land sel.toNat row.mask = row.bits) : row.matches (.req r) = true := by
  simp only [Row.matches, CodeWord.format, CodeWord.number, hf, hs, hb, decide_true, Bool.and_self]

theorem Sys2Proof.Laws.TableRow.beginTxn : Statement .beginTxn :=
  fun _ => ⟨⟨"BEGIN_TXN", .REQ, 0x0, 0xF⟩, by simp [opcodeTable], rfl, by decide⟩

theorem Sys2Proof.Laws.TableRow.sendByte (b : Byte) : Statement (.sendByte b) :=
  fun _ => ⟨⟨"SEND_BYTE", .REQ, 0x1, 0xF⟩, by simp [opcodeTable], rfl, Laws.row_matches_req 0x1#4 rfl rfl (by decide)⟩

theorem Sys2Proof.Laws.TableRow.endTxn : Statement .endTxn :=
  fun _ => ⟨⟨"END_TXN", .REQ, 0x2, 0xF⟩, by simp [opcodeTable], rfl, by decide⟩

theorem Sys2Proof.Laws.TableRow.setDisplay (slots : Slots) (colon : Bool) (bright3 : BitVec 3) :
    Statement (.setDisplay slots colon bright3) :=
  fun _ => ⟨⟨"SET_DISPLAY", .REQ, 0x3, 0xF⟩, by simp [opcodeTable], rfl, Laws.row_matches_req 0x3#4 rfl rfl (by decide)⟩

theorem Sys2Proof.Laws.TableRow.encodeChar (c : Byte) : Statement (.encodeChar c) :=
  fun _ => ⟨⟨"ENCODE_CHAR", .REQ, 0x4, 0xF⟩, by simp [opcodeTable], rfl, Laws.row_matches_req 0x4#4 rfl rfl (by decide)⟩

theorem Sys2Proof.Laws.TableRow.encodeInt (v : Int) : Statement (.encodeInt v) :=
  fun _ => ⟨⟨"ENCODE_INT", .REQ, 0x5, 0xF⟩, by simp [opcodeTable], rfl, Laws.row_matches_req 0x5#4 rfl rfl (by decide)⟩

theorem Sys2Proof.Laws.TableRow.encodeStr (str : List Byte) : Statement (.encodeStr str) :=
  fun _ => ⟨⟨"ENCODE_STR", .REQ, 0x6, 0xF⟩, by simp [opcodeTable], rfl, Laws.row_matches_req 0x6#4 rfl rfl (by decide)⟩

theorem Sys2Proof.Laws.TableRow.showInt (v : Int) (colon : Bool) (bright : Int) : Statement (.showInt v colon bright) :=
  fun _ => ⟨⟨"SHOW_INT", .REQ, 0x7, 0xF⟩, by simp [opcodeTable], rfl, Laws.row_matches_req 0x7#4 rfl rfl (by decide)⟩

theorem Sys2Proof.Laws.TableRow.showStr (str : List Byte) (colon : Bool) (bright : Int) :
    Statement (.showStr str colon bright) :=
  fun _ => ⟨⟨"SHOW_STR", .REQ, 0x8, 0xF⟩, by simp [opcodeTable], rfl, Laws.row_matches_req 0x8#4 rfl rfl (by decide)⟩

/-- R73: 0x9, 0xA..0xB and 0xC..0xF are the table's three RESERVED rows. -/
theorem Sys2Proof.Laws.TableRow.reserved (op : Selector) : Statement (.reserved op) := by
  intro h
  revert op
  decide

theorem Sys2Proof.Laws.TableRow.cmdModeAutoinc : Statement .cmdModeAutoinc :=
  fun _ => ⟨⟨"CMD_MODE_AUTOINC", .WIRE_CMD, 0x40, 0xFF⟩, by simp [opcodeTable], rfl, by decide⟩

theorem Sys2Proof.Laws.TableRow.cmdAddr0 : Statement .cmdAddr0 :=
  fun _ => ⟨⟨"CMD_ADDR_0", .WIRE_CMD, 0xC0, 0xFF⟩, by simp [opcodeTable], rfl, by decide⟩

theorem Sys2Proof.Laws.TableRow.cmdDisplayOn (brightness : BitVec 3) : Statement (.cmdDisplayOn brightness) := by
  intro _
  refine ⟨⟨"CMD_DISPLAY_ON", .WIRE_CMD, 0x88, 0xF8⟩, by simp [opcodeTable], rfl, ?_⟩
  revert brightness
  decide

theorem Sys2Proof.Laws.TableRow.dataSegment (bit7 : Bool) (segments : BitVec 7) : Statement (.dataSegment bit7 segments) :=
  fun _ => ⟨⟨"DATA_SEGMENT", .WIRE_DATA, 0x00, 0x00⟩, by simp [opcodeTable], rfl, by
    simp [Row.matches, CodeWord.format, CodeWord.number, encode, Nat.land]⟩
end

