-- ==== Sys2Proof/Machine/Assembler.lean ====
section
/-! DEFINITION. The textual form of requests (30_encoding.md R76, R77): one request a line, read to its instruction.
A line outside that form reads as `none`. -/

namespace Sys2Proof.Machine

/-- What a line is made of: words (mnemonics, numbers, `colon`, `bright`), literals and punctuation. -/
inductive Token where
  | word (w : List Char)
  | chr (c : Byte)
  | str (s : List Byte)
  | lbracket
  | rbracket
  | comma
  | equals
deriving DecidableEq, Repr

/-- R17: a character literal's 8-bit code. -/
def charCode (c : Char) : Option Byte := if c.toNat < 256 then some (BitVec.ofNat 8 c.toNat) else none

/-- Where the reader of a line stands. -/
inductive LexMode where
  | plain
  | inWord (w : List Char)
  | inChar (c : Option Byte)
  | inString (s : List Byte)
  | comment
  | bad
deriving DecidableEq, Repr

structure Lexer where
  mode : LexMode := .plain
  tokens : List Token := []
deriving DecidableEq, Repr

def Lexer.emit (l : Lexer) (t : Token) : Lexer := { mode := .plain, tokens := l.tokens ++ [t] }

/-- Outside literals: `;` starts a comment (R76). -/
def Lexer.plainChar (l : Lexer) (c : Char) : Lexer :=
  if c = ' ' then { l with mode := .plain }
  else if c = ';' then { l with mode := .comment }
  else if c = ',' then l.emit .comma
  else if c = '=' then l.emit .equals
  else if c = '[' then l.emit .lbracket
  else if c = ']' then l.emit .rbracket
  else if c = '\'' then { l with mode := .inChar none }
  else if c.toNat = 34 then { l with mode := .inString [] }
  else { l with mode := .inWord [c] }

/-- A character that ends a word. -/
def endsWord (c : Char) : Bool := [' ', ';', ',', '=', '[', ']', '\''].contains c || c.toNat == 34

def Lexer.next (l : Lexer) (c : Char) : Lexer :=
  match l.mode with
  | .plain => l.plainChar c
  | .inWord w =>
    if endsWord c then (l.emit (.word w)).plainChar c else { l with mode := .inWord (w ++ [c]) }
  | .inChar none =>
    match charCode c with
    | some b => { l with mode := .inChar (some b) }
    | none => { l with mode := .bad }
  | .inChar (some b) => if c = '\'' then l.emit (.chr b) else { l with mode := .bad }
  | .inString str =>
    if c.toNat = 34 then l.emit (.str str)
    else
      match charCode c with
      | some b => { l with mode := .inString (str ++ [b]) }
      | none => { l with mode := .bad }
  | .comment => l
  | .bad => l

def tokens (line : List Char) : Option (List Token) :=
  let l := line.foldl Lexer.next {}
  match l.mode with
  | .plain => some l.tokens
  | .comment => some l.tokens
  | .inWord w => some (l.tokens ++ [.word w])
  | .inChar _ => none
  | .inString _ => none
  | .bad => none

/-- The value of a digit in a base. -/
def digitIn (base : Nat) (c : Char) : Option Nat :=
  let n := c.toNat
  let d :=
    if 48 ≤ n ∧ n ≤ 57 then n - 48
    else if 97 ≤ n ∧ n ≤ 102 then n - 87
    else if 65 ≤ n ∧ n ≤ 70 then n - 55
    else base
  if d < base then some d else none

def digitsIn (base : Nat) : List Char → Nat → Option Nat
  | [], acc => some acc
  | c :: rest, acc =>
    match digitIn base c with
    | some d => digitsIn base rest (acc * base + d)
    | none => none

/-- At least one digit. -/
def numberIn (base : Nat) (w : List Char) : Option Nat := if w.isEmpty then none else digitsIn base w 0

/-- R76: `<byte>`, a 0x.. or 0b.. literal or a decimal number, in 0..255. -/
def byteWord (w : List Char) : Option Byte :=
  let n :=
    match w with
    | '0' :: 'x' :: rest => numberIn 16 rest
    | '0' :: 'b' :: rest => numberIn 2 rest
    | _ => numberIn 10 w
  match n with
  | some n => if n < 256 then some (BitVec.ofNat 8 n) else none
  | none => none

/-- R76: `<integer>`, a signed decimal number. -/
def intWord (w : List Char) : Option Int :=
  match w with
  | '-' :: rest => (numberIn 10 rest).map fun n => -(n : Int)
  | '+' :: rest => (numberIn 10 rest).map fun n => (n : Int)
  | _ => (numberIn 10 w).map fun n => (n : Int)

/-- R76: `colon=<0|1>`. -/
def boolWord (w : List Char) : Option Bool :=
  if w = ['0'] then some false else if w = ['1'] then some true else none

/-- R76: `bright=<0..7>`. -/
def bright3Word (w : List Char) : Option (BitVec 3) :=
  match numberIn 10 w with
  | some n => if n < 8 then some (BitVec.ofNat 3 n) else none
  | none => none

/-- R76: `colon=<0|1>, bright=…`. -/
def colonBright {α : Type} (readBright : List Char → Option α) : List Token → Option (Bool × α)
  | [.word k₁, .equals, .word v₁, .comma, .word k₂, .equals, .word v₂] =>
    if k₁ = "colon".toList ∧ k₂ = "bright".toList then do
      let colon ← boolWord v₁
      let bright ← readBright v₂
      pure (colon, bright)
    else none
  | _ => none

/-- R77: the literal after ENCODE_VALUE, a string or an integer. -/
def valueOperand : List Token → Option Value
  | [.str s] => some (.str s)
  | [.word w] => (intWord w).map .int
  | _ => none

/-- The request a mnemonic and its operand tokens spell. -/
def parseOperands (mnemonic : List Char) (ts : List Token) : Option Instr :=
  if mnemonic = "BEGIN_TXN".toList then
    if ts.isEmpty then some .beginTxn else none
  else if mnemonic = "END_TXN".toList then
    if ts.isEmpty then some .endTxn else none
  else if mnemonic = "SEND_BYTE".toList then
    match ts with
    | [.word w] => (byteWord w).map .sendByte
    | _ => none
  else if mnemonic = "SET_DISPLAY".toList then
    match ts with
    | .lbracket :: .word w0 :: .comma :: .word w1 :: .comma :: .word w2 :: .comma :: .word w3 :: .rbracket :: .comma :: rest => do
      let s0 ← byteWord w0
      let s1 ← byteWord w1
      let s2 ← byteWord w2
      let s3 ← byteWord w3
      let (colon, bright3) ← colonBright bright3Word rest
      pure (.setDisplay ⟨s0, s1, s2, s3⟩ colon bright3)
    | _ => none
  else if mnemonic = "ENCODE_CHAR".toList then
    match ts with
    | [.chr c] => some (.encodeChar c)
    | [.word w] => (byteWord w).map .encodeChar
    | _ => none
  else if mnemonic = "ENCODE_INT".toList then
    match ts with
    | [.word w] => (intWord w).map .encodeInt
    | _ => none
  else if mnemonic = "ENCODE_STR".toList then
    match ts with
    | [.str s] => some (.encodeStr s)
    | _ => none
  else if mnemonic = "ENCODE_VALUE".toList then (valueOperand ts).map encodeValueOp
  else if mnemonic = "SHOW_INT".toList then
    match ts with
    | .word w :: .comma :: rest => do
      let v ← intWord w
      let (colon, bright) ← colonBright intWord rest
      pure (.showInt v colon bright)
    | _ => none
  else if mnemonic = "SHOW_STR".toList then
    match ts with
    | .str s :: .comma :: rest => do
      let (colon, bright) ← colonBright intWord rest
      pure (.showStr s colon bright)
    | _ => none
  else none

/-- R76: one line, one request. -/
def assembleLine (line : List Char) : Option Instr :=
  match tokens line with
  | some (.word m :: ts) => parseOperands m ts
  | _ => none

end Sys2Proof.Machine
end

