-- ==== Sys2Proof/Tests/Slice0.lean ====
section
/-! SUPPORT. Small tests, and a witness for the hypotheses of every obligation that has some. Expected values come from the
tables of spec/30_encoding.md and from the vectors of spec/95_test_vectors.md, named V-…, P… and W… as there. -/

namespace Sys2Proof.Tests

open Sys2Proof Sys2Proof.Machine

/-! ### Helpers -/

/-- An idle block between updates: both lines 1. -/
def quiet (txn : Bool) (calls : List Call) (answers : List Bool) : State :=
  { State.reset with clk := some true, dio := some true, txn := txn, calls := calls, answers := answers }

/-- A block that runs `job` at position k with SR = sr, BC = bc. -/
def running (job : Job) (k : Nat) (sr : Byte) (bc : Fin 9) (answers : List Bool) : State :=
  { State.reset with seq := .running job k ⟨sr, bc⟩, answers := answers }

/-- A block whose open transaction has sent `bytes`. -/
def inTxn (bytes : List Byte) (answers : List Bool) : State :=
  { State.reset with
    clk := some true, dio := some true, txn := true, trace := wBegin ++ bytes.flatMap wSend, answers := answers }

/-- A faulted block. -/
def faulted (c : FaultCause) : State := { State.reset with fault := some c }

/-- The caller of instruction i, waiting for an idle block. -/
def call (i : Instr) : Call := ⟨none, (encode i).request⟩

def nextOf (o : Host.Outcome State Fault Refusal) : Option State :=
  match o with
  | .next s => some s
  | .fault _ => none
  | .refused _ => none

/-- A field of the next state, when there is one. -/
def after {α : Type} (o : Host.Outcome State Fault Refusal) (f : State → α) : Option α := (nextOf o).map f

def frame0 : Frame := ⟨⟨0x3F#8, 0x06#8, 0x5B#8, 0x4F#8⟩, true, 3#3⟩

/-! ### Well-formedness -/

theorem test_wf_refuses_op_zero : (Instr.reserved 0x0#4).wellFormed = false := by decide
theorem test_wf_refuses_op_eight : (Instr.reserved 0x8#4).wellFormed = false := by decide
theorem test_wf_accepts_op_nine : (Instr.reserved 0x9#4).wellFormed = true := by decide

/-! ### Decoding: words written out from R72, R82 to R85 -/

theorem test_decode_begin : decode (.req { op := 0b0000#4 }) = .ok .beginTxn := rfl
theorem test_decode_send : decode (.req { op := 0b0001#4, b := 0b10110010#8 }) = .ok (.sendByte 0xB2#8) := rfl
theorem test_decode_end : decode (.req { op := 0b0010#4 }) = .ok .endTxn := rfl
theorem test_decode_set :
    decode (.req { op := 0b0011#4, slots := ⟨0x3F#8, 0x06#8, 0x5B#8, 0x4F#8⟩, colon := true, bright3 := 0b011#3 }) =
      .ok (.setDisplay ⟨0x3F#8, 0x06#8, 0x5B#8, 0x4F#8⟩ true 3#3) := rfl
theorem test_decode_char : decode (.req { op := 0b0100#4, c := 0b00110111#8 }) = .ok (.encodeChar 0x37#8) := rfl
theorem test_decode_int : decode (.req { op := 0b0101#4, v := -42 }) = .ok (.encodeInt (-42)) := rfl
theorem test_decode_str : decode (.req { op := 0b0110#4, str := [0x48#8, 0x49#8] }) = .ok (.encodeStr [0x48#8, 0x49#8]) :=
  rfl
theorem test_decode_show_int :
    decode (.req { op := 0b0111#4, v := -5, colon := false, bright := 7 }) = .ok (.showInt (-5) false 7) := rfl
theorem test_decode_show_str :
    decode (.req { op := 0b1000#4, str := [0x31#8, 0x32#8], colon := true, bright := 9 }) =
      .ok (.showStr [0x31#8, 0x32#8] true 9) := rfl
theorem test_decode_reserved : decode (.req { op := 0b1010#4 }) = .ok (.reserved 0xA#4) := rfl
theorem test_decode_mode : decode (.wireCmd 0b01000000#8) = .ok .cmdModeAutoinc := rfl
theorem test_decode_addr : decode (.wireCmd 0b11000000#8) = .ok .cmdAddr0 := rfl
theorem test_decode_on : decode (.wireCmd 0b10001101#8) = .ok (.cmdDisplayOn 5#3) := rfl
theorem test_decode_data : decode (.wireData 0b11011011#8) = .ok (.dataSegment true 0x5B#7) := rfl
/-- R84: 0x80..0x87 are no row of the table. -/
theorem test_decode_off : decode (.wireCmd 0x80#8) = .error (.noCommandRow 0x80#8) := rfl
theorem test_table_words :
    [0x0, 0x3, 0x8, 0x9, 0xF, 0x40, 0xC0, 0x8B, 0x86, 0x100].map (decodeTableWord 8) =
      [some .beginTxn, some (.setDisplay ⟨0, 0, 0, 0⟩ false 0), some (.showStr [] false 0), some (.reserved 9#4),
       some (.reserved 15#4), some .cmdModeAutoinc, some .cmdAddr0, some (.cmdDisplayOn 3#3),
       some (.dataSegment true 0x06#7), none] := by decide

/-! ### The textual form (P1, P2, P3) -/

theorem test_assemble_show_int :
    assembleLine "SHOW_INT 1234, colon=1, bright=7     ; op=0x7, v=1234, colon=1, bright=7".toList =
      some (.showInt 1234 true 7) := by decide +kernel
theorem test_assemble_encode_str :
    assembleLine "ENCODE_STR \"HELLO\"                   ; op=0x6".toList =
      some (.encodeStr [0x48#8, 0x45#8, 0x4C#8, 0x4C#8, 0x4F#8]) := by decide +kernel
theorem test_assemble_send : assembleLine "SEND_BYTE 0x40     ; op=0x1, b=0x40".toList = some (.sendByte 0x40#8) := by
  decide +kernel
theorem test_assemble_value : assembleLine "ENCODE_VALUE -42".toList = some (.encodeInt (-42)) := by decide +kernel
theorem test_assemble_set :
    assembleLine "SET_DISPLAY [0x3F, 0x06, 0x5B, 0x4F], colon=1, bright=3".toList =
      some (.setDisplay ⟨0x3F#8, 0x06#8, 0x5B#8, 0x4F#8⟩ true 3#3) := by decide +kernel

/-! ### The encoder, on the reference instance (V-I, V-T, V-C) -/

theorem test_int_negative : intSlots .reference (-42) = .ok ⟨0x40#8, 0x3F#8, 0x66#8, 0x5B#8⟩ := rfl
theorem test_int_clobber : intSlots .reference (-1234) = .ok ⟨0x40#8, 0x5B#8, 0x4F#8, 0x66#8⟩ := rfl
theorem test_int_largest : intSlots .reference 9999 = .ok ⟨0x6F#8, 0x6F#8, 0x6F#8, 0x6F#8⟩ := rfl
theorem test_int_no_wrap : intSlots .reference (-32768) = .error (.intRange (-32768)) := rfl
theorem test_str_left_aligned : strSlots .reference [0x34#8, 0x32#8] = .ok ⟨0x66#8, 0x5B#8, 0x00#8, 0x00#8⟩ := rfl
theorem test_str_empty : strSlots .reference [] = .ok ⟨0x00#8, 0x00#8, 0x00#8, 0x00#8⟩ := rfl
theorem test_str_too_long : strSlots .reference [0x31#8, 0x32#8, 0x33#8, 0x34#8, 0x35#8] = .error (.strLength 5) := rfl
theorem test_char_nine : charPattern .reference 0x39#8 = 0x6F#8 := by decide
/-- R51, V-C9: an upper-case letter folds, 0xC8 does not. -/
theorem test_fold : [fold 0x40#8, fold 0x41#8, fold 0x5A#8, fold 0x5B#8, fold 0xC8#8] =
    [0x40#8, 0x61#8, 0x7A#8, 0x5B#8, 0xC8#8] := by decide
theorem test_reference_is_legal : Config.reference.legal = true := by decide
theorem test_same_pins_refused : (construct { Config.reference with dioPin := 0 }).code = 0x22#8 := by decide
/-- V-D5 to V-D9. -/
theorem test_reduce : [reduce .mask 9, reduce .mask (-1), reduce .mask 8, reduce .clamp 9, reduce .clamp (-1), reduce .clamp 8] =
    [1#3, 7#3, 0#3, 7#3, 0#3, 7#3] := by decide

/-! ### Waveforms (V-B5, V-S1) and the listener -/

/-- V-B5. -/
theorem test_send_b2 :
    (wSend 0xB2#8).map (fun w => (w.1 == Pin.DIO, w.2)) =
      [(false, false), (true, false), (false, true), (false, false), (true, true), (false, true), (false, false),
       (true, false), (false, true), (false, false), (true, false), (false, true), (false, false), (true, true),
       (false, true), (false, false), (true, true), (false, true), (false, false), (true, false), (false, true),
       (false, false), (true, true), (false, true), (false, false), (true, true), (false, true)] := by decide
/-- V-S1. -/
theorem test_listener_update :
    (Machine.listen (wSet frame0)).transactions =
      [[0x40#8], [0xC0#8, 0x3F#8, 0x86#8, 0x5B#8, 0x4F#8], [0x8B#8]] := by decide +kernel
/-- V-B14: a transaction of no bytes, with one trailing sample. -/
theorem test_listener_empty : (Machine.listen (wBegin ++ wEnd)).heard = [⟨[], [], 1⟩] := by decide
/-- P5: cut after 100 writes of SHOW_INT -5, bright=2. -/
theorem test_listener_halted :
    (Machine.listen ((wSet ⟨⟨0x40#8, 0x3F#8, 0x3F#8, 0x6D#8⟩, false, 2#3⟩).take 100)).hearing =
      some ⟨[0xC0#8, 0x40#8], [true, true], [true, true]⟩ := by decide +kernel
/-- P1's intended display: 12:34 at brightness 7. -/
theorem test_intended :
    intended [[0x40#8], [0xC0#8, 0x06#8, 0xDB#8, 0x4F#8, 0x66#8], [0x8F#8]] =
      some ⟨⟨0x06#8, 0xDB#8, 0x4F#8, 0x66#8⟩, true, 7#3⟩ := by decide

/-! ### One step of each instruction -/

/-- V-B1, first write. -/
theorem test_begin : after (exec .beginTxn (quiet false [] [true])) State.trace = some [(.DIO, true)] := by decide +kernel
/-- V-B3. -/
theorem test_begin_misuse :
    after (exec .beginTxn (quiet true [] [])) State.fault = some (some (.protocolMisuse .beginTxn)) := by decide
/-- R103: SR and BC after the first write. -/
theorem test_send :
    after (exec (.sendByte 0xB2#8) (quiet true [] [true])) State.seq = some (.running (.sendByte 0xB2#8) 1 ⟨0xB2#8, 0⟩) := by
  decide
/-- V-B4. -/
theorem test_send_misuse :
    after (exec (.sendByte 0x12#8) (quiet false [] [])) State.fault = some (some (.protocolMisuse .sendByte)) := by decide
theorem test_end : after (exec .endTxn (quiet true [] [true])) State.clk = some (some false) := by decide
/-- V-B11. -/
theorem test_end_misuse :
    after (exec .endTxn (quiet false [] [])) State.fault = some (some (.protocolMisuse .endTxn)) := by decide
theorem test_set : after (exec (.setDisplay frame0.slots true 3#3) (quiet false [] [true])) State.trace =
    some [(.DIO, true)] := by decide +kernel
/-- V-S7. -/
theorem test_set_misuse : after (exec (.setDisplay frame0.slots true 3#3) (quiet true [] [])) State.fault =
    some (some (.protocolMisuse .setDisplay)) := by decide
theorem test_encode_int_error : after (exec (.encodeInt 10000) (quiet true [] [])) State.replies =
    some [.err (.intRange 10000)] := by decide
theorem test_encode_str_error : after (exec (.encodeStr (List.replicate 5 0x48#8)) (quiet false [] [])) State.replies =
    some [.err (.strLength 5)] := by decide
theorem test_encode_char_sticky :
    after (exec (.encodeChar 0x31#8) (faulted (.protocolMisuse .sendByte))) State.replies = none := by decide
/-- V-D10: the range error comes before the precondition. -/
theorem test_show_int_order : after (exec (.showInt 10000 false 7) (quiet true [] [])) (fun t => (t.replies, t.fault)) =
    some ([.err (.intRange 10000)], none) := by decide
/-- V-D2: the accepted update, no write made. -/
theorem test_show_str_no_write : after (exec (.showStr [0x31#8, 0x32#8] true 0) (quiet false [] [])) State.trace =
    some [] := by decide
/-- V-B13. -/
theorem test_reserved : after (exec (.reserved 0xA#4) (quiet false [] [])) (fun t => (t.refused, t.replies)) =
    some (true, [.refused (.reservedOp 0xA#4)]) := by decide
theorem test_mode : after (exec .cmdModeAutoinc (inTxn [] [true])) State.seq =
    some (.running (.sendByte 0x40#8) 1 ⟨0x40#8, 0⟩) := by decide
theorem test_addr : after (exec .cmdAddr0 (inTxn [] [true])) State.seq =
    some (.running (.sendByte 0xC0#8) 1 ⟨0xC0#8, 0⟩) := by decide
theorem test_on : after (exec (.cmdDisplayOn 3#3) (inTxn [] [true])) State.seq =
    some (.running (.sendByte 0x8B#8) 1 ⟨0x8B#8, 0⟩) := by decide
theorem test_data : after (exec (.dataSegment true 0x5B#7) (inTxn [0xC0#8] [true])) State.seq =
    some (.running (.sendByte 0xDB#8) 1 ⟨0xDB#8, 0⟩) := by decide +kernel
/-- R69, R88: a segment byte is no command; SEND_BYTE sends any. -/
theorem test_data_no_command : after (exec (.dataSegment true 0x41#7) (inTxn [] [true])) (fun t => (t.seq, t.replies)) =
    some (.idle, [.refused (.misplacedByte 0xC1#8)]) := by decide
theorem test_send_any : after (exec (.sendByte 0xC1#8) (inTxn [] [true])) State.trace =
    some (wBegin ++ [(.CLK, false)]) := by decide
/-- R85: a sixth byte has no place. -/
theorem test_data_full : after (exec (.dataSegment false 0#7) (inTxn [0xC0#8, 0, 0, 0, 0] [])) State.refused = some true := by
  decide +kernel

/-! ### Micro-steps -/

/-- R103: the data bit after two are sent of 0xB2 is its bit 2, SR[0]. -/
theorem test_micro_bit : after (step (running (.sendByte 0xB2#8) 7 0x2C#8 2 [true])) State.trace =
    some [(.DIO, false)] := by decide
/-- R103: SR shifts with the C1 of a bit. -/
theorem test_micro_shift : after (step (running (.sendByte 0xB2#8) 8 0x2C#8 2 [true])) State.seq =
    some (.running (.sendByte 0xB2#8) 9 ⟨0x16#8, 3⟩) := by decide
/-- P4: write 40 fails. -/
theorem test_micro_failure :
    after (step (running (.showInt ⟨⟨0x40#8, 0x3F#8, 0x3F#8, 0x6D#8⟩, false, 2#3⟩) 40 0xC0#8 0 [false]))
      (fun t => (t.fault, t.dio, t.trace)) = some (some (.pinWriteFailure .DIO false .showInt 40), none, []) := by
  decide +kernel
/-- R218. -/
theorem test_concurrent :
    after (step ({ running .endTxn 2 0 0 [] with calls := [⟨some 1, (encode (.encodeChar 0x31#8)).request⟩] })) State.replies =
      some [.refused (.concurrentRequest 0x4#4)] := by decide

/-- Every row of the table runs as the first instruction after construction. -/
theorem test_rows_run_from_reset :
    ([0x0, 0x1, 0x2, 0x3, 0x4, 0x5, 0x6, 0x7, 0x8, 0x9, 0xA, 0xC, 0x40, 0xC0, 0x88, 0xFF].all
      fun w => (nextOf (step (State.reset.withFetchWord 8 w))).isSome) = true := by decide

/-! ### Witnesses: each obligation's hypotheses are met, together, at the ends of their ranges -/

/-- The block of a run statement: it receives i with n successful writes to come. -/
def receiving (i : Instr) (txn : Bool) (n : Nat) : State := quiet txn [call i, call .endTxn] (List.replicate n true ++ [false])

theorem receiving_receives (i : Instr) (txn : Bool) (n : Nat) (h : decodeRequest (encode i).request = i) :
    (receiving i txn n).Receives i [call .endTxn] := ⟨⟨rfl, rfl⟩, rfl, _, rfl, h⟩

/-- A run of n steps from there ends without a fault. -/
def cleanRun (n : Nat) (i : Instr) (txn : Bool) : Bool :=
  match Host.Core.run Sys2Proof.core n (receiving i txn n) with
  | .next t => t.fault == none
  | .fault _ => false
  | .refused _ => false

def set0 : Instr := .setDisplay frame0.slots frame0.colon frame0.bright3
def blank0 : Instr := .setDisplay ⟨0, 0, 0, 0⟩ false 0#3

theorem witness_DecodeOfEncodeIsTheInstruction :
    (Instr.reserved 0x9#4).wellFormed = true ∧ (Instr.reserved 0xF#4).wellFormed = true := ⟨rfl, rfl⟩
theorem witness_EncodeOfDecodeKeepsTheListedFields :
    decode (.req { op := 0x2#4, b := 0x55#8, v := 7 }) = .ok .endTxn := rfl
theorem witness_DecodingFollowsTheOpcodeTable :
    decode (.wireCmd 0x8F#8) = .ok (.cmdDisplayOn 7#3) ∧ decode (.wireCmd 0x90#8) = .error (.noCommandRow 0x90#8) :=
  ⟨rfl, rfl⟩
/-- An idle block and a waiting caller; a running block and a caller that does not wait. -/
theorem witness_StepExecutesTheDueRequest :
    (let s := quiet false [call .endTxn] []
     s.fault = none ∧ s.calls = [call .endTxn] ∧ (call .endTxn).due s.seq = true ∧
      decodeRequest (call .endTxn).request = .endTxn) ∧
    (let c : Call := ⟨some 3, (encode .endTxn).request⟩
     let s := { running .endTxn 3 0 0 [] with calls := [c] }
     s.fault = none ∧ s.calls = [c] ∧ c.due s.seq = true ∧ decodeRequest c.request = .endTxn) :=
  ⟨⟨rfl, rfl, rfl, rfl⟩, rfl, rfl, rfl, rfl⟩
theorem witness_StepWithoutDueRequestIsAMicroStep :
    (let s := { running .endTxn 2 0 0 [] with calls := [⟨some 3, (encode .endTxn).request⟩] }
     s.fault = none ∧ ∀ c rest, s.calls = c :: rest → c.due s.seq = false) ∧
    (State.reset.fault = none ∧ (∀ c rest, State.reset.calls = c :: rest → c.due State.reset.seq = false) ∧
      State.reset.seq = .idle) := by
  refine ⟨⟨rfl, fun c rest h => ?_⟩, rfl, fun c rest h => ?_, rfl⟩ <;> cases h
  rfl
/-- A selector; a segment byte with no transaction open, and one in its place. -/
theorem witness_FetchedWordRunsNext :
    (State.reset.fault = none ∧ decodeTableWord 8 0xF = some (.reserved 0xF#4) ∧ 0xF < 16) ∧
      (decodeTableWord 8 0xFF = some (.dataSegment true 0x7F#7) ∧ State.reset.txn = false) ∧
      ((inTxn [0xC0#8] []).fault = none ∧ StandsInPlace (.dataSegment true 0x7F#7) (inTxn [0xC0#8] []).openBytes) :=
  ⟨⟨rfl, by decide, by decide⟩, ⟨by decide, rfl⟩, rfl, .inr ⟨⟨_, _, rfl⟩, [], by decide, by decide +kernel⟩⟩

theorem witness_BeginTxnDrivesDataHighFirst : (quiet false [] [true]).Ready ∧ (quiet false [] [true]).txn = false :=
  ⟨⟨rfl, rfl⟩, rfl⟩
/-- Each row in its place, the two ends of the rows' operands, the first and the last data place. -/
theorem witness_SendByteLoadsAndDrivesClockLowFirst :
    ((inTxn [] [false]).Ready ∧ (inTxn [] [false]).txn = true ∧ StandsInPlace .cmdModeAutoinc (inTxn [] [false]).openBytes ∧
      StandsInPlace .cmdAddr0 (inTxn [] [false]).openBytes ∧
      StandsInPlace (.cmdDisplayOn 7#3) (inTxn [] [false]).openBytes) ∧
    ((inTxn [0xC0#8] []).Ready ∧ StandsInPlace (.dataSegment false 0#7) (inTxn [0xC0#8] []).openBytes) ∧
    ((inTxn [0xC0#8, 1, 2, 3] []).Ready ∧
      StandsInPlace (.dataSegment true 127#7) (inTxn [0xC0#8, 1, 2, 3] []).openBytes) ∧
    (0x88#8).toNat = 0x88 + (0#3).toNat ∧ (0x8F#8).toNat = 0x88 + (7#3).toNat ∧
      (0x00#8).toNat = 128 * false.toNat + (0#7).toNat ∧ (0xFF#8).toNat = 128 * true.toNat + (127#7).toNat :=
  ⟨⟨⟨rfl, rfl⟩, rfl, .inl ⟨.inl rfl, rfl⟩, .inl ⟨.inr (.inl rfl), rfl⟩, .inl ⟨.inr (.inr ⟨_, rfl⟩), rfl⟩⟩,
   ⟨⟨rfl, rfl⟩, .inr ⟨⟨_, _, rfl⟩, [], by decide, by decide +kernel⟩⟩,
   ⟨⟨rfl, rfl⟩, .inr ⟨⟨_, _, rfl⟩, [1, 2, 3], by decide, by decide +kernel⟩⟩, by decide⟩
/-- A segment byte in a command position, and a command after a byte. -/
theorem witness_WireByteOutOfPlaceIsNotSent :
    ((inTxn [] []).Ready ∧ (inTxn [] []).txn = true ∧ ¬ StandsInPlace (.dataSegment true 0x41#7) (inTxn [] []).openBytes ∧
      (0xC1#8).toNat = 128 * true.toNat + (0x41#7).toNat) ∧
    ((inTxn [0x40#8] []).Ready ∧ (inTxn [0x40#8] []).txn = true ∧
      ¬ StandsInPlace .cmdAddr0 (inTxn [0x40#8] []).openBytes) := by
  refine ⟨⟨⟨rfl, rfl⟩, rfl, ?_, by decide⟩, ⟨rfl, rfl⟩, rfl, ?_⟩
  · rintro (⟨h | h | ⟨_, h⟩, -⟩ | ⟨-, _, -, h⟩)
    · cases h
    · cases h
    · cases h
    · have e : (inTxn [] []).openBytes = some [] := by decide
      rw [e] at h
      cases h
  · rintro (⟨-, h⟩ | ⟨⟨_, _, h⟩, -⟩)
    · have e : (inTxn [0x40#8] []).openBytes = some [0x40#8] := by decide +kernel
      rw [e] at h
      cases h
    · cases h
/-- A command starts; and an update cut inside its data transaction has two first bytes. -/
theorem witness_OnlyListedCommandBytesAreSent :
    ((inTxn [] [true]).Ready ∧ (∀ x, Instr.cmdAddr0 ≠ .sendByte x) ∧
      after (exec .cmdAddr0 (inTxn [] [true])) State.seq = some (.running (.sendByte 0xC0#8) 1 ⟨0xC0#8, 0⟩)) ∧
    ((Machine.listen ((wSet frame0).take 100)).transactions ++
      (Machine.listen ((wSet frame0).take 100)).hearing.toList.map Hearing.bytes).map List.head? =
        [some 0x40#8, some 0xC0#8] :=
  ⟨⟨⟨rfl, rfl⟩, fun _ h => (by cases h), by decide⟩, by decide +kernel⟩
theorem witness_EndTxnDrivesClockLowFirst : (quiet true [] [true]).Ready ∧ (quiet true [] [true]).txn = true :=
  ⟨⟨rfl, rfl⟩, rfl⟩
theorem witness_SetDisplayDrivesDataHighFirst : (quiet false [] [false]).Ready ∧ (quiet false [] [false]).txn = false :=
  ⟨⟨rfl, rfl⟩, rfl⟩
theorem witness_ShowRequestsAreAcceptedBeforeAnyWrite :
    (quiet false [] []).Ready ∧ (quiet false [] []).txn = false ∧
      (∃ x, intSlots Config.cfg 9999 = .ok x) ∧ (∃ x, intSlots Config.cfg (-9999) = .ok x) ∧
      (∃ x, strSlots Config.cfg [] = .ok x) ∧ (∃ x, strSlots Config.cfg [1#8, 2#8, 3#8, 4#8] = .ok x) :=
  ⟨⟨rfl, rfl⟩, rfl, ⟨_, rfl⟩, ⟨_, rfl⟩, ⟨_, rfl⟩, ⟨_, rfl⟩⟩

theorem witness_BeginTxnDrivesItsWaveform :
    (receiving .beginTxn false 4).Receives .beginTxn [call .endTxn] ∧ (receiving .beginTxn false 4).txn = false ∧
      (receiving .beginTxn false 4).answers = List.replicate 4 true ++ [false] :=
  ⟨receiving_receives _ _ _ rfl, rfl, rfl⟩
theorem witness_SendByteDrivesItsWaveform :
    (receiving (.sendByte 0xB2#8) true 27).Receives (.sendByte 0xB2#8) [call .endTxn] ∧
      (receiving (.sendByte 0xB2#8) true 27).txn = true ∧
      (receiving (.sendByte 0xB2#8) true 27).answers = List.replicate 27 true ++ [false] :=
  ⟨receiving_receives _ _ _ rfl, rfl, rfl⟩
theorem witness_EndTxnDrivesItsWaveform :
    (receiving .endTxn true 4).Receives .endTxn [call .endTxn] ∧ (receiving .endTxn true 4).txn = true ∧
      (receiving .endTxn true 4).answers = List.replicate 4 true ++ [false] :=
  ⟨receiving_receives _ _ _ rfl, rfl, rfl⟩
theorem witness_SetDisplayDrivesThreeTransactions :
    (receiving set0 false 213).Receives set0 [call .endTxn] ∧ (receiving set0 false 213).txn = false ∧
      (receiving set0 false 213).answers = List.replicate 213 true ++ [false] :=
  ⟨receiving_receives _ _ _ rfl, rfl, rfl⟩
theorem witness_ShowRequestsDriveTheirUpdate :
    ((∃ x, intSlots Config.cfg (-9999) = .ok x) ∧
      (receiving (.showInt (-9999) false 7) false 213).Receives (.showInt (-9999) false 7) [call .endTxn] ∧
      (receiving (.showInt (-9999) false 7) false 213).txn = false ∧
      (receiving (.showInt (-9999) false 7) false 213).answers = List.replicate 213 true ++ [false]) ∧
    ((∃ x, strSlots Config.cfg [0x31#8, 0x32#8] = .ok x) ∧
      (receiving (.showStr [0x31#8, 0x32#8] true 9) false 213).Receives (.showStr [0x31#8, 0x32#8] true 9) [call .endTxn] ∧
      (receiving (.showStr [0x31#8, 0x32#8] true 9) false 213).txn = false ∧
      (receiving (.showStr [0x31#8, 0x32#8] true 9) false 213).answers = List.replicate 213 true ++ [false]) :=
  ⟨⟨⟨_, rfl⟩, receiving_receives _ _ _ rfl, rfl, rfl⟩, ⟨_, rfl⟩, receiving_receives _ _ _ rfl, rfl, rfl⟩
theorem witness_LevelsAfterEachOperation :
    ((receiving .beginTxn false 4).Receives .beginTxn [call .endTxn] ∧ cleanRun 4 .beginTxn false = true) ∧
    ((receiving (.sendByte 0xB2#8) true 27).Receives (.sendByte 0xB2#8) [call .endTxn] ∧
      cleanRun 27 (.sendByte 0xB2#8) true = true) ∧
    ((receiving .endTxn true 4).Receives .endTxn [call .endTxn] ∧ cleanRun 4 .endTxn true = true) ∧
    ((receiving set0 false 213).Receives set0 [call .endTxn] ∧ cleanRun 213 set0 false = true) :=
  ⟨⟨receiving_receives _ _ _ rfl, by decide +kernel⟩, ⟨receiving_receives _ _ _ rfl, by decide +kernel⟩,
   ⟨receiving_receives _ _ _ rfl, by decide +kernel⟩, receiving_receives _ _ _ rfl, by decide +kernel⟩
/-- n = 0, n = 1 and n = 213. -/
theorem witness_HaltedUpdateHasDrivenAPrefix :
    (∀ n, (receiving set0 false n).Receives set0 [call .endTxn] ∧ (receiving set0 false n).txn = false) ∧
      cleanRun 0 set0 false = true ∧ cleanRun 1 set0 false = true ∧ cleanRun 213 set0 false = true :=
  ⟨fun _ => ⟨receiving_receives _ _ _ rfl, rfl⟩, by decide +kernel⟩
/-- A display request, a misuse, a refusal, and no answer given. -/
theorem witness_EveryRequestEndsInOneOutcome :
    (receiving (.showInt 5 true 3) false 0).Receives (.showInt 5 true 3) [call .endTxn] ∧
      (receiving .beginTxn true 0).Receives .beginTxn [call .endTxn] ∧
      (receiving (.reserved 0xF#4) true 0).Receives (.reserved 0xF#4) [call .endTxn] ∧
      (quiet true [call (.encodeInt 5)] []).Receives (.encodeInt 5) [] :=
  ⟨receiving_receives _ _ _ rfl, receiving_receives _ _ _ rfl, receiving_receives _ _ _ rfl, ⟨rfl, rfl⟩, rfl, _, rfl, rfl⟩
theorem witness_FrameIsNotKept :
    (receiving set0 false 213).Receives set0 [call .endTxn] ∧ (receiving blank0 false 213).Receives blank0 [call .endTxn] ∧
      receiving blank0 false 213 = { receiving set0 false 213 with calls := (receiving blank0 false 213).calls } ∧
      cleanRun 213 set0 false = true ∧ cleanRun 213 blank0 false = true :=
  ⟨receiving_receives _ _ _ rfl, receiving_receives _ _ _ rfl, rfl, by decide +kernel⟩

/-- The first write of an update and its last. -/
theorem running_first_coherent (answers : List Bool) : (running (.setDisplay frame0) 0 0 0 answers).Coherent :=
  ⟨by show 0 < (wSet frame0).length; decide +kernel, fun h => absurd rfl h, trivial⟩
theorem running_last_coherent (answers : List Bool) : (running (.setDisplay frame0) 212 0 0 answers).Coherent :=
  ⟨by show 212 < (wSet frame0).length; decide +kernel, fun h => absurd rfl h, trivial⟩
theorem witness_MicroStepPerformsTheNextWrite :
    (let s := running (.setDisplay frame0) 0 0 0 [true]
     s.Coherent ∧ s.fault = none ∧ s.seq = .running (.setDisplay frame0) 0 ⟨0, 0⟩ ∧ s.takeCall = none ∧
      (Job.setDisplay frame0).waveform[0]? = some (.DIO, true) ∧ s.nextAnswer = true) ∧
    (let s := running (.setDisplay frame0) 212 0 0 [true]
     s.Coherent ∧ s.fault = none ∧ s.seq = .running (.setDisplay frame0) 212 ⟨0, 0⟩ ∧ s.takeCall = none ∧
      (Job.setDisplay frame0).waveform[212]? = some (.DIO, true) ∧ s.nextAnswer = true) :=
  ⟨⟨running_first_coherent _, rfl, rfl, rfl, by decide +kernel, rfl⟩,
   running_last_coherent _, rfl, rfl, rfl, by decide +kernel, rfl⟩
theorem witness_FailedPinWriteFaultsTheBlock :
    (let s := running (.setDisplay frame0) 0 0 0 [false]
     s.Coherent ∧ s.fault = none ∧ s.seq = .running (.setDisplay frame0) 0 ⟨0, 0⟩ ∧ s.takeCall = none ∧
      (Job.setDisplay frame0).waveform[0]? = some (.DIO, true) ∧ s.nextAnswer = false) ∧
    (let s := running (.setDisplay frame0) 212 0 0 [false]
     s.Coherent ∧ s.fault = none ∧ s.seq = .running (.setDisplay frame0) 212 ⟨0, 0⟩ ∧ s.takeCall = none ∧
      (Job.setDisplay frame0).waveform[212]? = some (.DIO, true) ∧ s.nextAnswer = false) :=
  ⟨⟨running_first_coherent _, rfl, rfl, rfl, by decide +kernel, rfl⟩,
   running_last_coherent _, rfl, rfl, rfl, by decide +kernel, rfl⟩
theorem witness_StepKeepsCoherence :
    (running (.setDisplay frame0) 0 0 0 [true]).Coherent ∧
      (nextOf (step (running (.setDisplay frame0) 0 0 0 [true]))).isSome = true :=
  ⟨running_first_coherent _, by decide +kernel⟩
/-- Bits 0 and 7 of 0xB2. -/
theorem witness_ShiftRegisterHoldsTheRemainingBits :
    ((running (.sendByte 0xB2#8) 1 0xB2#8 0 []).Coherent ∧
      (running (.sendByte 0xB2#8) 1 0xB2#8 0 []).seq = .running (.sendByte 0xB2#8) (3 * 0 + 1) ⟨0xB2#8, 0⟩) ∧
    ((running (.sendByte 0xB2#8) 22 0x01#8 7 []).Coherent ∧
      (running (.sendByte 0xB2#8) 22 0x01#8 7 []).seq = .running (.sendByte 0xB2#8) (3 * 7 + 1) ⟨0x01#8, 7⟩) :=
  ⟨⟨⟨by show 1 < (wSend 0xB2#8).length; decide, fun h => absurd rfl h, .inr ⟨rfl, rfl⟩⟩, rfl⟩,
   ⟨by show 22 < (wSend 0xB2#8).length; decide, fun h => absurd rfl h, .inr ⟨rfl, rfl⟩⟩, rfl⟩
theorem witness_StepAppendsAtMostOneWriteAndOneOutcome :
    after (step (running .endTxn 3 0 0 [true])) (fun t => (t.trace.length, t.replies.length)) = some (1, 1) := by decide
/-- A level is set, and a level is lost. -/
theorem witness_LineLevelsChangeOnlyByWrites :
    after (step (running (.setDisplay frame0) 0 0 0 [true])) (fun t => t.line .DIO) = some (some true) ∧
      after (step ({ running (.setDisplay frame0) 0 0 0 [false] with dio := some true })) (fun t => t.line .DIO) =
        some none := by decide +kernel
/-- `st.txn` is set, is cleared, and a fault is recorded. -/
theorem witness_FlagsAreWrittenOnlyByTheirRules :
    after (step (running .beginTxn 3 0 0 [true])) State.txn = some true ∧
      after (step ({ running .endTxn 3 0 0 [true] with txn := true })) State.txn = some false ∧
      after (step (running .endTxn 3 0 0 [false])) (fun t => t.fault.isSome) = some true := by decide
/-- The first write and the last. -/
theorem witness_RunningOperationIsNotInterrupted :
    ∀ k < 4, let s := { running .endTxn k 0 0 [] with calls := [call .beginTxn] }
    s.Coherent ∧ s.fault = none ∧ s.seq = .running .endTxn k ⟨0, 0⟩ ∧ dutiful s.calls = true := by
  intro k hk
  refine ⟨⟨hk, fun h => absurd rfl h, ?_⟩, rfl, rfl, rfl⟩
  show workMatches [.closing] k ⟨0, 0⟩
  simp [workMatches, sendingAt, hk]
theorem witness_FaultedBlockHasNoStep :
    (faulted (.protocolMisuse .endTxn)).fault = some (.protocolMisuse .endTxn) ∧
      (faulted (.pinWriteFailure .DIO false .showInt 40)).fault = some (.pinWriteFailure .DIO false .showInt 40) :=
  ⟨rfl, rfl⟩
theorem witness_RequestWhileRunningIsRefused :
    (running .endTxn 3 0 0 []).fault = none ∧ (running .endTxn 3 0 0 []).seq = .running .endTxn 3 ⟨0, 0⟩ := ⟨rfl, rfl⟩
theorem witness_ReservedSelectorIsRefused :
    (quiet true [] []).Ready ∧ 9 ≤ ({ op := 0x9#4 } : Request).op.toNat ∧ 9 ≤ ({ op := 0xF#4 } : Request).op.toNat :=
  ⟨⟨rfl, rfl⟩, by decide, by decide⟩
/-- Both values of `st.txn`, the operands at the ends of their ranges. -/
theorem witness_MisuseFaultsBeforeAnyWrite :
    ((quiet false [] []).Ready ∧ (quiet false [] []).txn = false) ∧ ((quiet true [] []).Ready ∧ (quiet true [] []).txn = true) ∧
      (-9999 : Int).natAbs < 10000 ∧ (9999 : Int).natAbs < 10000 ∧ ([] : List Byte).length ≤ 4 ∧
      ([1#8, 2#8, 3#8, 4#8] : List Byte).length ≤ 4 :=
  ⟨⟨⟨rfl, rfl⟩, rfl⟩, ⟨⟨rfl, rfl⟩, rfl⟩, by decide, by decide, by decide, by decide⟩
theorem witness_RangeErrorHappensBeforeAnyBusActivity :
    (quiet true [] []).Ready ∧ (nextOf (exec (.showInt 10000 true 7) (quiet true [] []))).isSome = true ∧
      10000 ≤ (-10000 : Int).natAbs ∧ 4 < ([1#8, 2#8, 3#8, 4#8, 5#8] : List Byte).length :=
  ⟨⟨rfl, rfl⟩, by decide, by decide, by decide⟩
/-- One state for each of the six conditions. -/
theorem witness_ConditionsAreCheckedInOrder :
    (faulted (.protocolMisuse .endTxn)).fault = some (.protocolMisuse .endTxn) ∧
      ((running .endTxn 3 0 0 []).fault = none ∧ (running .endTxn 3 0 0 []).seq ≠ .idle) ∧
      (quiet true [] []).Ready ∧ 10000 ≤ (10000 : Int).natAbs ∧ 4 < ([1#8, 2#8, 3#8, 4#8, 5#8] : List Byte).length ∧
      ((quiet true [] []).txn = true ∧ (9999 : Int).natAbs < 10000 ∧ ([1#8, 2#8, 3#8, 4#8] : List Byte).length ≤ 4) ∧
      ((quiet false [] []).Ready ∧ (quiet false [] []).txn = false) ∧
      (let s := running (.setDisplay frame0) 212 0 0 [false]
       s.Coherent ∧ s.fault = none ∧ s.seq = .running (.setDisplay frame0) 212 ⟨0, 0⟩ ∧ s.takeCall = none ∧
        (Job.setDisplay frame0).waveform[212]? = some (.DIO, true) ∧ s.nextAnswer = false) :=
  ⟨rfl, ⟨rfl, fun h => by cases h⟩, ⟨rfl, rfl⟩, by decide, by decide, ⟨rfl, by decide, by decide⟩, ⟨⟨rfl, rfl⟩, rfl⟩,
   running_last_coherent _, rfl, rfl, rfl, by decide +kernel, rfl⟩
/-- The mark is set by a step. -/
theorem witness_RefusedMarkIsSticky :
    after (step (quiet false [call (.reserved 0x9#4)] [])) State.refused = some true := by decide

theorem external_first (answers : List Bool) : (running (.setDisplay frame0) 0 0 0 answers).ExternalInv :=
  ⟨running_first_coherent _, fun _ h => (by cases h), fun _ => ⟨rfl, by decide, rfl, _, .inl rfl, rfl⟩⟩
theorem external_quiet : (quiet false [call (.encodeInt 5)] []).ExternalInv := by
  refine ⟨⟨trivial, fun _ => rfl, trivial⟩, fun c h => ?_, fun _ => ⟨rfl, .inr rfl⟩⟩
  rw [List.mem_singleton.1 h]
  rfl
theorem witness_ExternalRequestsNeverMisuse :
    (quiet false [call (.encodeInt 5)] []).ExternalInv ∧
      (nextOf (step (quiet false [call (.encodeInt 5)] []))).isSome = true := ⟨external_quiet, by decide⟩
/-- An idle block with an external call, and an update that has begun. -/
theorem witness_StepKeepsTheQuiescentInvariant :
    ((quiet false [call (.encodeInt 5)] []).ExternalInv ∧
      (nextOf (step (quiet false [call (.encodeInt 5)] []))).isSome = true) ∧
    ((running (.setDisplay frame0) 0 0 0 [true]).ExternalInv ∧
      (nextOf (step (running (.setDisplay frame0) 0 0 0 [true]))).isSome = true) :=
  ⟨⟨external_quiet, by decide⟩, external_first _, by decide +kernel⟩
theorem witness_StepKeepsTheTraceWellFramed :
    (running (.setDisplay frame0) 0 0 0 [true]).FramedInv ∧
      (nextOf (step (running (.setDisplay frame0) 0 0 0 [true]))).isSome = true :=
  ⟨⟨external_first _, rfl, fun _ => ⟨[], rfl, rfl, rfl, .inl rfl⟩⟩, by decide +kernel⟩
/-- A listener that has heard nothing, and one that has heard an update. -/
theorem witness_ListenerHearsTheUpdate :
    (Machine.listen []).hearing = none ∧ quietLines ((Machine.listen []).lclk, (Machine.listen []).ldio) ∧
      (Machine.listen (wSet frame0)).hearing = none ∧
      quietLines ((Machine.listen (wSet frame0)).lclk, (Machine.listen (wSet frame0)).ldio) :=
  ⟨rfl, .inl rfl, by decide +kernel, .inr (by decide +kernel)⟩
/-- Lines that are not quiescent. -/
theorem witness_StartIsHeardFromAnyLevels :
    ({ lclk := some true, ldio := some false } : Listener).hearing = none ∧ (Machine.listen []).hearing = none := ⟨rfl, rfl⟩

theorem witness_EncodeCharReturnsTheGlyph : (quiet true [] []).Ready ∧ (quiet false [] []).Ready := ⟨⟨rfl, rfl⟩, rfl, rfl⟩
theorem witness_EncodeIntReturnsTheDigits :
    (quiet true [] []).Ready ∧ (-9999 : Int).natAbs = 1000 * 9 + 100 * 9 + 10 * 9 + 9 ∧
      (0 : Int).natAbs = 1000 * 0 + 100 * 0 + 10 * 0 + 0 ∧ 10000 ≤ (10000 : Int).natAbs :=
  ⟨⟨rfl, rfl⟩, by decide, by decide, by decide⟩
theorem witness_EncodeStrReturnsTheCharacters :
    (quiet true [] []).Ready ∧ ([] : List Byte).length ≤ 4 ∧ ([1#8, 2#8, 3#8, 4#8] : List Byte).length ≤ 4 ∧
      4 < ([1#8, 2#8, 3#8, 4#8, 5#8] : List Byte).length := ⟨⟨rfl, rfl⟩, by decide, by decide, by decide⟩
theorem witness_EncoderReadsOnlyItsOperands :
    (∃ c, Instr.encodeChar 0xFF#8 = .encodeChar c) ∧ (quiet true [] []).Ready := ⟨⟨_, rfl⟩, rfl, rfl⟩
theorem witness_FoldChangesNoLookup :
    (0x41 ≤ (0x41#8).toNat ∧ (0x5A#8).toNat ≤ 0x5A) ∧ (0x40#8).toNat < 0x41 ∧ 0x5A < (0x5B#8).toNat ∧
      Config.reference.legal = true := by decide
theorem witness_SignClobbersTheLeftmostDigit :
    ((quiet true [] []).Ready ∧ ∃ x, intSlots Config.cfg (-9999) = .ok x) ∧ (-10000 : Int) < -9999 ∧ (-1 : Int) < 0 ∧
      ((-1999 : Int) ≤ -1000 ∧ (-1000 : Int) < -999 ∧ (-1999 : Int).natAbs % 1000 = (-999 : Int).natAbs) ∧
      ((-9001 : Int) ≤ -1000 ∧ (-1 : Int) < 0 ∧ (-9001 : Int).natAbs % 1000 = (-1 : Int).natAbs) :=
  ⟨⟨⟨rfl, rfl⟩, _, rfl⟩, by decide⟩
theorem witness_SourcePropertiesHoldOfTheEncoder :
    (quiet true [] []).Ready ∧ Config.reference.legal = true ∧ (-999 : Int).natAbs = 100 * 9 + 10 * 9 + 9 ∧
      (-1 : Int).natAbs = 100 * 0 + 10 * 0 + 1 := ⟨⟨rfl, rfl⟩, by decide, by decide, by decide⟩
theorem witness_BrightnessReductionFollowsItsMode : ((0 : Int) ≤ 0 ∧ (0 : Int) ≤ 7) ∧ (0 : Int) ≤ 7 ∧ (7 : Int) ≤ 7 := by decide
theorem witness_ColonIsOredIntoSlotOne : (0 : Nat) < 7 ∧ (6 : Nat) < 7 := by decide

end Sys2Proof.Tests
end

section
/-! PROOFS. The block after construction (10_state.md R37) and the encoder operations' frame (R39). -/

open Sys2Proof Sys2Proof.Machine

/-- Settles O59, field by field of the reset state. -/
theorem resetValues : Obligations.ResetValues := ⟨rfl, rfl, rfl, rfl, rfl, rfl⟩

/-- Settles O44: a ready block admits the request, whose reply is computed from its operands. -/
theorem encoderReadsOnlyItsOperands : Obligations.EncoderReadsOnlyItsOperands := by
  rintro i (⟨c, rfl⟩ | ⟨v, rfl⟩ | ⟨str, rfl⟩)
  · exact ⟨.ok (.byte (charPattern Config.cfg c)), fun s ⟨hf, hq⟩ => accept_ready hf hq⟩
  · exact ⟨slotsReply (intSlots Config.cfg v), fun s ⟨hf, hq⟩ => accept_ready hf hq⟩
  · exact ⟨slotsReply (strSlots Config.cfg str), fun s ⟨hf, hq⟩ => accept_ready hf hq⟩

end

section
/-! PROOFS. Coherence (10_state.md R28, R31; 60_exceptions.md R204): what an accepted instruction and a step keep of it, and
what it says of SR and BC inside a SEND_BYTE. -/

namespace Sys2Proof.Machine

/-- An instruction that answers a next state keeps coherence. -/
theorem exec_coherent {i : Instr} {s t : State} (hc : s.Coherent) (h : exec i s = .next t) : t.Coherent := by
  obtain ⟨hf, ⟨_, _, _, -, rfl⟩ | ⟨-, ⟨_, rfl⟩ | ⟨_, rfl⟩ | ⟨job, _, -, -, rfl⟩ | ⟨job, -, -, rfl⟩ | ⟨_, -, rfl⟩⟩⟩ :=
    exec_next h
  · exact coherent_of_same hc rfl rfl
  · exact coherent_of_same hc rfl rfl
  · exact coherent_of_idle rfl
  · exact microStep_coherent (coherent_start s job hf) hf
  · exact coherent_start s job hf
  · exact coherent_of_same hc rfl rfl

/-- A step that answers a next state keeps coherence. -/
theorem step_coherent {s t : State} (hc : s.Coherent) (h : step s = .next t) : t.Coherent := by
  obtain ⟨hf, ⟨-, rfl⟩ | ⟨_, rest, -, -, he⟩⟩ := step_next h
  · exact microStep_coherent hc hf
  · have hc' : (s.setCalls rest).Coherent := coherent_of_same hc rfl rfl
    exact exec_coherent hc' he

/-- R31: in a coherent block the running operation stands inside its waveform. -/
theorem position_lt_of_coherent {s : State} {job : Job} {k : Nat} {w : Work} (hc : s.Coherent)
    (hq : s.seq = .running job k w) : k < job.waveform.length := by
  obtain ⟨hs, -, -⟩ := hc
  simpa [State.SeqInv, hq] using hs

/-- A coherent block that stands at write k of a stand-alone SEND_BYTE, its first write done, holds in SR the bits still to
be sent and in BC the number of those sent (R103). -/
theorem work_of_sendByte {s : State} {b : Byte} {k : Nat} {w : Work} (hc : s.Coherent)
    (hq : s.seq = .running (.sendByte b) k w) (hk : 0 < k) (hk' : k < 27) :
    w.sr = b >>> min (k / 3) 8 ∧ w.bc.val = min (k / 3) 8 := by
  obtain ⟨-, -, hw⟩ := hc
  have hsend : sendingAt (Job.subOps (.sendByte b)) k = some (b, k) := by simp [Job.subOps, sendingAt, hk']
  simp only [State.WorkInv, hq, workMatches, hsend] at hw
  exact hw.resolve_left (by omega)

end Sys2Proof.Machine

open Sys2Proof Sys2Proof.Machine

/-- Settles O26: the call that is due is executed on a coherent block, and a micro-step keeps coherence. -/
theorem stepKeepsCoherence : Obligations.StepKeepsCoherence :=
  fun _ _ hc h => step_coherent hc h

/-- Settles O27: an idle block is coherent. -/
theorem resetIsCoherent : Obligations.ResetIsCoherent := coherent_of_idle rfl

/-- Settles O28: after the load at write 0, SR has been shifted once per bit sent. -/
theorem shiftRegisterHoldsTheRemainingBits : Obligations.ShiftRegisterHoldsTheRemainingBits := by
  intro s b k w n hc hq hn hk
  obtain ⟨hsr, hbc⟩ := work_of_sendByte hc hq (by omega) (by omega)
  have hsent : min (k / 3) 8 = n := by omega
  refine ⟨by simp [hsr, hsent], hbc.trans hsent, ?_⟩
  subst hk
  interval_cases n <;> rfl

end

section
/-! PROOFS. What one step can do to the lines, the flags, the trace and the outcomes (10_state.md R62 to R64, 40_bus_driver.md
R100 and R101, 60_exceptions.md R204), said once. -/

namespace Sys2Proof.Machine

/-! ### The line read by `State.line` after each update -/

theorem State.answered_line (s : State) (p : Pin) : s.answered.line p = s.line p := by
  cases p <;> simp [State.line]

theorem State.drive_line (s : State) (p q : Pin) (v : Bit) :
    (s.drive (q, v)).line p = if p = q then some v else s.line p := by
  cases p <;> cases q <;> rfl

theorem State.setLine_line_ne (s : State) {p q : Pin} (l : Option Bit) (h : p ≠ q) : (s.setLine q l).line p = s.line p := by
  cases p <;> cases q
  · exact absurd rfl h
  · rfl
  · rfl
  · exact absurd rfl h

theorem State.afterWrite_line (s : State) (a : After) (p : Pin) : (s.afterWrite a).line p = s.line p := by
  cases p <;> simp [State.line]

/-- R102, R104: the completion writes to `st.txn`, in the form `txnAfter` gives them. -/
theorem State.afterWrite_txnAfter (s : State) (a : After) : (s.afterWrite a).txn = txnAfter s.txn a := by
  cases a <;> rfl

/-- R31: whether or not it completes the operation, `advance` touches the sequencer and the outcomes only. -/
theorem State.advance_keeps (s : State) (job : Job) (k : Nat) (w : Work) :
    (∀ p, (s.advance job k w).line p = s.line p) ∧ (s.advance job k w).txn = s.txn ∧
      (s.advance job k w).fault = s.fault ∧ (s.advance job k w).trace = s.trace ∧
      ((s.advance job k w).replies = s.replies ∨ ∃ r, (s.advance job k w).replies = s.replies ++ [r]) := by
  obtain ⟨-, e⟩ | ⟨-, e⟩ := advance_cases s job k w <;> rw [e]
  · exact ⟨fun _ => rfl, rfl, rfl, rfl, .inl rfl⟩
  · exact ⟨fun _ => rfl, rfl, rfl, rfl, .inr ⟨_, rfl⟩⟩

/-- What a step from s to t can have done. -/
inductive StepEffect (s t : State) : Prop where
  /-- No pin write and no fault; at most one outcome delivered. -/
  | keeps (line : ∀ p, t.line p = s.line p) (txn : t.txn = s.txn) (fault : t.fault = s.fault)
      (trace : t.trace = s.trace) (replies : t.replies = s.replies ∨ ∃ r, t.replies = s.replies ++ [r])
  /-- R204: fault entry, after a failed write (R101) or on a broken precondition (R206). -/
  | faults (c : FaultCause)
      (line : ∀ p, t.line p = s.line p ∨ t.line p = none ∧ ∃ v op k, c = .pinWriteFailure p v op k)
      (seq : t.seq = .idle) (txn : t.txn = s.txn) (fault : t.fault = some c) (trace : t.trace = s.trace)
      (replies : t.replies = s.replies ++ [.faulted c])
  /-- R100: entry m of a program performed, at the running operation's position or at write 0 of an accepted one. -/
  | writes (job : Job) (k : Nat) (m : Micro) (v : Bit) (entry : job.program[k]? = some m)
      (place : k = 0 ∨ ∃ w, s.seq = .running job k w) (level : ∀ x, m.level = .const x → v = x)
      (line : ∀ p, t.line p = if p = m.pin then some v else s.line p) (txn : t.txn = txnAfter s.txn m.after)
      (fault : t.fault = s.fault) (trace : t.trace = s.trace ++ [(m.pin, v)])
      (replies : t.replies = s.replies ∨ ∃ r, t.replies = s.replies ++ [r])

/-- An effect on u is one on s when u differs from s in its inputs and counter only, and stands where s does or at
position 0. -/
theorem StepEffect.of_agree {s u t : State} (h : StepEffect u t) (line : ∀ p, u.line p = s.line p)
    (txn : u.txn = s.txn) (fault : u.fault = s.fault) (trace : u.trace = s.trace) (replies : u.replies = s.replies)
    (seq : ∀ job k w, u.seq = .running job k w → k = 0 ∨ s.seq = .running job k w) : StepEffect s t := by
  cases h with
  | keeps hl ht hf htr hr =>
    simp only [line, txn, fault, trace, replies] at hl ht hf htr hr
    exact .keeps hl ht hf htr hr
  | faults c hl hq ht hf htr hr =>
    simp only [line, txn, trace, replies] at hl ht htr hr
    exact .faults c hl hq ht hf htr hr
  | writes job k m v hm hp hv hl ht hf htr hr =>
    simp only [line, txn, fault, trace, replies] at hl ht hf htr hr
    have hp' : k = 0 ∨ ∃ w, s.seq = .running job k w := by
      obtain h0 | ⟨w, hq⟩ := hp
      · exact .inl h0
      · exact (seq job k w hq).imp_right fun h => ⟨w, h⟩
    exact .writes job k m v hm hp' hv hl ht hf htr hr

/-- What a micro-step can have done. -/
theorem microStep_effect (s : State) : StepEffect s (microStep s) := by
  obtain ⟨-, e⟩ | ⟨job, k, w, -, -, e⟩ | ⟨job, k, w, m, hq, hm, -, e⟩ | ⟨job, k, w, m, -, -, -, e⟩ :=
    microStep_cases s <;> rw [e]
  · exact .keeps (fun _ => rfl) rfl rfl rfl (.inl rfl)
  · exact .keeps (fun _ => rfl) rfl rfl rfl (.inr ⟨_, rfl⟩)
  · obtain ⟨hl, ht, hf, htr, hr⟩ :=
      State.advance_keeps ((s.answered.drive (m.pin, m.levelOf (m.loaded w))).afterWrite m.after) job k
        ((s.answered.drive (m.pin, m.levelOf (m.loaded w))).workAfter (m.loaded w) m.after)
    refine .writes job k m (m.levelOf (m.loaded w)) hm (.inr ⟨w, hq⟩) (fun x hx => by simp [Micro.levelOf, hx])
      (fun p => ?_) ?_ ?_ ?_ ?_
    · rw [hl, State.afterWrite_line, State.drive_line, State.answered_line]
    · rw [ht, State.afterWrite_txnAfter, State.drive_txn, State.answered_txn]
    · simp [hf]
    · simp [htr]
    · simpa using hr
  · refine .faults (.pinWriteFailure m.pin (m.levelOf (m.loaded w)) job.op k) (fun p => ?_) rfl ?_ rfl ?_ ?_
    · by_cases hp : p = m.pin
      · subst hp
        exact .inr ⟨State.setLine_line _ _ _, _, _, _, rfl⟩
      · exact .inl ((State.setLine_line_ne _ _ hp).trans (State.answered_line s p))
    · simp
    · simp
    · simp

/-- What an instruction that answers a next state can have done. -/
theorem exec_effect {i : Instr} {s t : State} (h : exec i s = .next t) : StepEffect s t := by
  obtain ⟨-, ⟨_, _, _, -, rfl⟩ | ⟨-, ⟨_, rfl⟩ | ⟨_, rfl⟩ | ⟨job, _, -, -, rfl⟩ | ⟨job, -, -, rfl⟩ | ⟨_, -, rfl⟩⟩⟩ :=
    exec_next h
  · exact .keeps (fun _ => rfl) rfl rfl rfl (.inr ⟨_, rfl⟩)
  · exact .keeps (fun _ => rfl) rfl rfl rfl (.inr ⟨_, rfl⟩)
  · exact .faults _ (fun _ => .inl rfl) rfl rfl rfl rfl rfl
  · refine (microStep_effect (s.start job)).of_agree (fun _ => rfl) rfl rfl rfl rfl fun _ k _ hq => ?_
    cases hq
    exact .inl rfl
  · exact .keeps (fun _ => rfl) rfl rfl rfl (.inl rfl)
  · exact .keeps (fun _ => rfl) rfl rfl rfl (.inr ⟨_, rfl⟩)

/-- What a step that answers a next state can have done. -/
theorem step_effect {s t : State} (h : step s = .next t) : StepEffect s t := by
  obtain ⟨-, ⟨-, rfl⟩ | ⟨_, rest, -, -, he⟩⟩ := step_next h
  · exact microStep_effect s
  · exact (exec_effect he).of_agree (fun _ => rfl) rfl rfl rfl rfl fun _ _ _ hq => .inr hq

/-- A write that changes `st.txn` is the last entry of a start, which opens the transaction, or of a stop, which closes it
(R102, R104). -/
theorem txn_change_cases {job : Job} {k : Nat} {m : Micro} {x : Bool} (hm : job.program[k]? = some m)
    (h : txnAfter x m.after ≠ x) :
    ∃ ops rest,
      (job.subOps = ops ++ .opening :: rest ∧ k + 1 = (ops.flatMap SubOp.waveform ++ wBegin).length ∧
          txnAfter x m.after = true ∧ m.pin = .CLK ∧ m.level = .const false) ∨
        (job.subOps = ops ++ .closing :: rest ∧ k + 1 = (ops.flatMap SubOp.waveform ++ wEnd).length ∧
          txnAfter x m.after = false ∧ m.pin = .DIO ∧ m.level = .const true) := by
  obtain ⟨hopen, hclose⟩ := after_of_program job.subOps k m hm
  cases ha : m.after with
  | nothing | shift | sendDone => exact absurd (by rw [ha]; rfl) h
  | openTxn =>
    obtain ⟨hp, hv, ops, rest, he, hk⟩ := hopen ha
    exact ⟨ops, rest, .inl ⟨he, hk, rfl, hp, hv⟩⟩
  | closeTxn =>
    obtain ⟨hp, hv, ops, rest, he, hk⟩ := hclose ha
    exact ⟨ops, rest, .inr ⟨he, hk, rfl, hp, hv⟩⟩

end Sys2Proof.Machine

open Sys2Proof Sys2Proof.Machine

/-- Settles O29, by the three effects a step can have. -/
theorem stepAppendsAtMostOneWriteAndOneOutcome : Obligations.StepAppendsAtMostOneWriteAndOneOutcome := by
  intro s t h
  cases step_effect h with
  | keeps _ _ _ htr hr => exact ⟨.inl htr, hr⟩
  | faults c _ _ _ _ htr hr => exact ⟨.inl htr, .inr ⟨_, hr⟩⟩
  | writes _ _ _ _ _ _ _ _ _ _ htr hr => exact ⟨.inr ⟨_, htr⟩, hr⟩

/-- Settles O30: a performed write sets the level of its own line, a failed one loses it. -/
theorem lineLevelsChangeOnlyByWrites : Obligations.LineLevelsChangeOnlyByWrites := by
  intro s t p h hne
  cases step_effect h with
  | keeps hl => exact absurd (hl p) hne
  | faults c hl _ _ hf htr =>
    obtain ⟨hlost, v, op, k, rfl⟩ := (hl p).resolve_left hne
    exact .inr ⟨htr, hlost, v, op, k, hf⟩
  | writes job k m v _ _ _ hl _ _ htr =>
    have hlp := hl p
    split at hlp
    · next hp => exact .inl ⟨v, hp ▸ htr, hlp⟩
    · exact absurd hlp hne

/-- Settles O31: only the last entry of a start or a stop changes `st.txn`, and an accepted operation's write 0 is none; the
fault record changes on fault entry only. -/
theorem flagsAreWrittenOnlyByTheirRules : Obligations.FlagsAreWrittenOnlyByTheirRules := by
  intro s t h
  cases step_effect h with
  | keeps _ ht hf => exact ⟨fun hne => absurd ht hne, fun hne => absurd hf hne⟩
  | faults c _ hq ht hf htr hr => exact ⟨fun hne => absurd ht hne, fun _ => ⟨hq, htr, ht, c, hf, hr⟩⟩
  | writes job k m v hm hplace hv _ ht hf htr =>
    refine ⟨fun hne => ?_, fun hne => absurd hf hne⟩
    obtain ⟨ops, rest, hends⟩ := txn_change_cases hm (ht ▸ hne)
    have hk : k ≠ 0 := by
      rintro rfl
      obtain ⟨-, hk, -⟩ | ⟨-, hk, -⟩ := hends <;> simp [wBegin, wEnd] at hk
    obtain ⟨w, hq⟩ := hplace.resolve_left hk
    refine ⟨job, k, w, ops, rest, hq, ?_⟩
    obtain ⟨he, hlen, hx, hp, hlev⟩ | ⟨he, hlen, hx, hp, hlev⟩ := hends
    · exact .inl ⟨he, hlen, ht.trans hx, by rw [htr, hp, hv _ hlev]⟩
    · exact .inr ⟨he, hlen, ht.trans hx, by rw [htr, hp, hv _ hlev]⟩

end

section
/-! PROOFS. The quiescent invariant (10_state.md R38) under every step of a block used through the external interface: it is
kept by what leaves the block's registers alone, holds of an update just accepted, and a micro-step carries it along the
update's waveform (40_bus_driver.md R105, R109). -/

namespace Sys2Proof.Machine

/-- What the entries of a job's program do besides their writes, in order. -/
def Job.afters (job : Job) : List After := job.program.map Micro.after

theorem Job.afters_getElem? {job : Job} {k : Nat} {m : Micro} (hm : job.program[k]? = some m) :
    job.afters[k]? = some m.after := by
  simp [Job.afters, hm]

/-- An update's `afters`, whatever its frame. -/
def updateAfters : List After := (Job.setDisplay default).afters

theorem afters_of_update {job : Job} (h : job.isUpdate = true) : job.afters = updateAfters := by
  cases job with
  | beginTxn | sendByte | endTxn => cases h
  | setDisplay | showInt | showStr => rfl

/-- R105: an update drives the waveform of its frame. -/
theorem waveform_of_update {job : Job} (h : job.isUpdate = true) : ∃ f, job.waveform = wSet f := by
  cases job with
  | beginTxn | sendByte | endTxn => cases h
  | setDisplay f | showInt f | showStr f => exact ⟨f, rfl⟩

/-- R108: an update has 213 writes. -/
theorem update_length {job : Job} (h : job.isUpdate = true) : job.waveform.length = 213 := by
  obtain ⟨f, hf⟩ := waveform_of_update h
  simp [hf, wSet, wTxn_length, dataBytes]

/-- R104, R109: an update leaves both lines at 1, whatever they were. -/
theorem driveLines_update {job : Job} (h : job.isUpdate = true) (l : Option Bit × Option Bit) :
    driveLines l job.waveform = (some true, some true) := by
  obtain ⟨f, hf⟩ := waveform_of_update h
  rw [hf, wSet, driveLines_append, driveLines_wTxn]

/-- `updateTxn` follows the flag that an update's entries write. -/
theorem updateTxn_succ {job : Job} {k : Nat} {m : Micro} (h : job.isUpdate = true) (hm : job.program[k]? = some m) :
    txnAfter (updateTxn k) m.after = updateTxn (k + 1) := by
  have htable : ∀ k < 213, ∀ a ∈ updateAfters[k]?, txnAfter (updateTxn k) a = updateTxn (k + 1) := by decide +kernel
  have hk : k < 213 := by
    rw [← update_length h, ← program_length]
    exact (List.getElem?_eq_some_iff.1 hm).1
  exact htable k hk m.after (afters_of_update h ▸ Job.afters_getElem? hm)

/-- The invariant of an idle block. -/
theorem externalInv_idle {s : State} (hq : s.seq = .idle) :
    s.ExternalInv ↔ (∀ c ∈ s.calls, c.external = true) ∧
      (s.fault = none → s.txn = false ∧ quietLines (s.clk, s.dio)) := by
  simp only [State.ExternalInv, hq, coherent_of_idle hq, true_and]

/-- The invariant of an unfaulted block that runs an operation. -/
theorem externalInv_running {s : State} {job : Job} {k : Nat} {w : Work} (hq : s.seq = .running job k w)
    (hf : s.fault = none) :
    s.ExternalInv ↔ s.Coherent ∧ (∀ c ∈ s.calls, c.external = true) ∧ job.isUpdate = true ∧ k < 213 ∧
      s.txn = updateTxn k ∧ ∃ lines, quietLines lines ∧ (s.clk, s.dio) = driveLines lines (job.waveform.take k) := by
  simp only [State.ExternalInv, hq, hf, true_imp_iff]

/-- A faulted block keeps no more than its callers' class. -/
theorem externalInv_of_faulted {s : State} (hq : s.seq = .idle) (hf : s.fault ≠ none)
    (hcalls : ∀ c ∈ s.calls, c.external = true) : s.ExternalInv :=
  (externalInv_idle hq).2 ⟨hcalls, fun h => absurd h hf⟩

/-- What leaves the lines, the flags and the sequencer as they are, and brings no caller of another class, keeps the
invariant. -/
theorem externalInv_of_same {s t : State} (h : s.ExternalInv) (hclk : t.clk = s.clk) (hdio : t.dio = s.dio)
    (htxn : t.txn = s.txn) (hf : t.fault = s.fault) (hq : t.seq = s.seq) (hcalls : t.calls ⊆ s.calls) :
    t.ExternalInv := by
  obtain ⟨hc, hext, hbus⟩ := h
  refine ⟨coherent_of_same hc hq hf, fun c hmem => hext c (hcalls hmem), ?_⟩
  rw [hclk, hdio, htxn, hf, hq]
  exact hbus

/-- R105, R170, R171: an update accepted by a quiescent block has driven nothing. -/
theorem externalInv_start {s : State} {job : Job} (h : s.ExternalInv) (hf : s.fault = none) (hq : s.seq = .idle)
    (hu : job.isUpdate = true) : (s.start job).ExternalInv := by
  obtain ⟨hext, hbus⟩ := (externalInv_idle hq).1 h
  obtain ⟨htxn, hquiet⟩ := hbus hf
  exact (externalInv_running (State.start_seq s job) hf).2
    ⟨coherent_start s job hf, hext, hu, by decide, htxn, _, hquiet, rfl⟩

/-- R100, R109: a write that succeeds takes an update one position on, or ends it with the bus quiescent. -/
theorem externalInv_of_performed {s t : State} {job : Job} {k : Nat} {w : Work} {m : Micro} {p : Pin} {v : Bit}
    (h : s.ExternalInv) (hf : s.fault = none) (hq : s.seq = .running job k w) (hw : job.waveform[k]? = some (p, v))
    (hm : job.program[k]? = some m) (hp : Performed s t job k m p v) : t.ExternalInv := by
  obtain ⟨-, hext, hu, hk, htxn, lines, hquiet, hlines⟩ := (externalInv_running hq hf).1 h
  have hext' : ∀ c ∈ t.calls, c.external = true := hp.calls ▸ hext
  have htxn' : t.txn = updateTxn (k + 1) := by rw [hp.txn, htxn, updateTxn_succ hu hm]
  have hlines' : (t.clk, t.dio) = driveLines lines (job.waveform.take (k + 1)) := by
    rw [hp.lines, hlines, ← driveLines_append, List.take_add_one, hw]
    rfl
  have hlen : job.program.length = 213 := (program_length job).trans (update_length hu)
  by_cases hlast : k + 1 = 213
  · obtain ⟨hidle, -⟩ := hp.ends (hlast.trans hlen.symm)
    refine (externalInv_idle hidle).2 ⟨hext', fun _ => ⟨by rw [htxn', hlast]; decide, .inr ?_⟩⟩
    rw [hlines', List.take_of_length_le (by rw [update_length hu, hlast]), driveLines_update hu]
  · obtain ⟨⟨w', hrun⟩, -⟩ := hp.goesOn (by omega)
    exact (externalInv_running hrun hp.fault).2
      ⟨hp.coherent, hext', hu, by omega, htxn', lines, hquiet, hlines'⟩

/-- A micro-step keeps the invariant, whatever the platform answers. -/
theorem microStep_externalInv {s : State} (h : s.ExternalInv) (hf : s.fault = none) : (microStep s).ExternalInv := by
  have ⟨hc, hext, _⟩ := h
  obtain ⟨-, e⟩ | ⟨job, k, w, hq, hnone, -⟩ | ⟨job, k, w, _, hq, -, ha, -⟩ | ⟨_, _, _, _, -, -, -, e⟩ :=
    microStep_cases s
  · rwa [e]
  · have hk : job.program.length ≤ k := by simpa using hnone
    have hlt : k < job.program.length := (program_length job).symm ▸ position_lt_of_coherent hc hq
    omega
  · have hw := List.getElem?_eq_getElem (position_lt_of_coherent hc hq)
    obtain ⟨m, hm, hp⟩ := microStep_ok hc hf hq hw ha
    exact externalInv_of_performed h hf hq hw hm hp
  · rw [e]
    exact externalInv_of_faulted rfl (by simp) (by simpa using hext)

/-- R72: the one bus operation an external request launches is an update. -/
theorem isUpdate_of_launches {i : Instr} {job : Job} {n : Bool} (hi : i.opClass = .external) (h : launches i job n) :
    job.isUpdate = true := by
  cases i with
  | setDisplay =>
    obtain ⟨rfl, -⟩ := h
    rfl
  | beginTxn | sendByte | endTxn | cmdModeAutoinc | cmdAddr0 | cmdDisplayOn | dataSegment | reserved => cases hi
  | encodeChar | encodeInt | encodeStr | showInt | showStr => exact h.elim

/-- R170, R171: a validated display request stands before an update. -/
theorem isUpdate_of_validates {i : Instr} {job : Job} (h : validates i job) : job.isUpdate = true := by
  cases i with
  | showInt | showStr =>
    obtain ⟨_, -, rfl⟩ := h
    rfl
  | _ => exact h.elim

/-- An external instruction that answers a next state keeps the invariant. -/
theorem exec_externalInv {i : Instr} {s t : State} (hs : s.ExternalInv) (hi : i.opClass = .external)
    (h : exec i s = .next t) : t.ExternalInv := by
  obtain ⟨hf, ⟨_, _, _, -, rfl⟩ | ⟨hq, ⟨_, rfl⟩ | ⟨_, rfl⟩ | ⟨job, n, hl, -, rfl⟩ | ⟨job, hv, -, rfl⟩ | ⟨_, -, rfl⟩⟩⟩ :=
    exec_next h
  · exact externalInv_of_same hs rfl rfl rfl rfl rfl (List.Subset.refl _)
  · exact externalInv_of_same hs rfl rfl rfl rfl rfl (List.Subset.refl _)
  · obtain ⟨-, hext, -⟩ := hs
    exact externalInv_of_faulted rfl (by simp) hext
  · exact microStep_externalInv (externalInv_start hs hf hq (isUpdate_of_launches hi hl)) hf
  · exact externalInv_start hs hf hq (isUpdate_of_validates hv)
  · exact externalInv_of_same hs rfl rfl rfl rfl rfl (List.Subset.refl _)

/-- A step of a block used through the external interface keeps the invariant. -/
theorem step_externalInv {s t : State} (hs : s.ExternalInv) (h : step s = .next t) : t.ExternalInv := by
  obtain ⟨hf, ⟨-, rfl⟩ | ⟨c, rest, hcalls, -, he⟩⟩ := step_next h
  · exact microStep_externalInv hs hf
  · have hc : c.external = true := by
      obtain ⟨-, hext, -⟩ := hs
      exact hext c (by simp [hcalls])
    have hs' : (s.setCalls rest).ExternalInv :=
      externalInv_of_same hs rfl rfl rfl rfl rfl (by simp [hcalls])
    exact exec_externalInv hs' (of_decide_eq_true hc) he

/-- R37, R38: construction leaves the lines unknown and no transaction open. -/
theorem reset_externalInv : State.reset.ExternalInv :=
  (externalInv_idle rfl).2 ⟨by simp [State.reset], fun _ => ⟨rfl, .inl rfl⟩⟩

end Sys2Proof.Machine

open Sys2Proof Sys2Proof.Machine

/-- Settles O53: the external request that is due, or the micro-step of the running update, keeps the invariant. -/
theorem stepKeepsTheQuiescentInvariant : Obligations.StepKeepsTheQuiescentInvariant :=
  fun _ _ hs h => step_externalInv hs h

/-- Settles O54: the reset block is idle, with unknown lines and no caller. -/
theorem resetIsQuiescent : Obligations.ResetIsQuiescent := reset_externalInv

/-- Settles O56: the empty trace is well framed and ends outside a transaction. -/
theorem resetTraceIsWellFramed : Obligations.ResetTraceIsWellFramed :=
  ⟨reset_externalInv, rfl, fun _ => ⟨rfl, rfl⟩⟩

end

section
/-! PROOFS. Where n successful writes of a running operation leave the block (40_bus_driver.md R100, R105), and so where an
update that no fault ended leaves it: nothing there depends on the frame but the trace (42_display_request.md R174). -/

namespace Sys2Proof.Machine

/-- A state is its fields. -/
theorem State.eq_of_fields {s t : State} (clk : t.clk = s.clk) (dio : t.dio = s.dio) (txn : t.txn = s.txn)
    (fault : t.fault = s.fault) (trace : t.trace = s.trace) (seq : t.seq = s.seq) (refused : t.refused = s.refused)
    (replies : t.replies = s.replies) (calls : t.calls = s.calls) (answers : t.answers = s.answers)
    (draws : t.draws = s.draws) : t = s := by
  cases s
  cases t
  simp_all

/-- n writes of `job` from position k on, all of them successful, lead from s to t. -/
structure Driven (s t : State) (job : Job) (k n : Nat) : Prop where
  lines : (t.clk, t.dio) = driveLines (s.clk, s.dio) ((job.waveform.drop k).take n)
  trace : t.trace = s.trace ++ (job.waveform.drop k).take n
  txn : t.txn = ((job.afters.drop k).take n).foldl txnAfter s.txn
  fault : t.fault = none
  refused : t.refused = s.refused
  calls : t.calls = s.calls
  answers : t.answers = s.answers.drop n
  draws : t.draws = s.draws + (n - s.answers.length) + ((job.afters.drop k).take n).count .sendDone
  goesOn : k + n < job.program.length → (∃ w, t.seq = .running job (k + n) w) ∧ t.replies = s.replies
  ends : k + n = job.program.length → t.seq = .idle ∧ t.replies = s.replies ++ [.ok .none]
  coherent : t.Coherent

theorem Driven.zero {s : State} {job : Job} {k : Nat} {w : Work} (hc : s.Coherent) (hf : s.fault = none)
    (hq : s.seq = .running job k w) : Driven s s job k 0 where
  lines := rfl
  trace := by simp
  txn := rfl
  fault := hf
  refused := rfl
  calls := rfl
  answers := rfl
  draws := by simp
  goesOn _ := ⟨⟨w, hq⟩, rfl⟩
  ends h := by
    have hk := position_lt_of_coherent hc hq
    rw [← program_length] at hk
    omega
  coherent := hc

/-- One more successful write. -/
theorem Driven.succ {s u t : State} {job : Job} {k n : Nat} {m : Micro} {p : Pin} {v : Bit}
    (hd : Driven s u job k n) (hlt : k + n < job.program.length) (hw : job.waveform[k + n]? = some (p, v))
    (hm : job.program[k + n]? = some m) (hp : Performed u t job (k + n) m p v) : Driven s t job k (n + 1) := by
  obtain ⟨-, hreplies⟩ := hd.goesOn hlt
  have hwave : (job.waveform.drop k).take (n + 1) = (job.waveform.drop k).take n ++ [(p, v)] := by
    rw [List.take_add_one, List.getElem?_drop, hw, Option.toList_some]
  have hafter : (job.afters.drop k).take (n + 1) = (job.afters.drop k).take n ++ [m.after] := by
    rw [List.take_add_one, List.getElem?_drop, Job.afters_getElem? hm, Option.toList_some]
  have hdraws : u.answered.draws + (n - s.answers.length) = u.draws + (n + 1 - s.answers.length) := by
    simp only [State.answered_draws, hd.answers, List.drop_eq_nil_iff]
    split <;> omega
  constructor
  case lines => rw [hp.lines, hd.lines, hwave, driveLines_append]
  case trace => rw [hp.trace, hd.trace, hwave, List.append_assoc]
  case txn => rw [hp.txn, hd.txn, hafter, List.foldl_append, List.foldl_cons, List.foldl_nil]
  case fault => exact hp.fault
  case refused => exact hp.refused.trans hd.refused
  case calls => exact hp.calls.trans hd.calls
  case answers => rw [hp.answers, hd.answers, List.tail_drop]
  case draws =>
    have hu := hd.draws
    rw [hp.draws, hafter, List.count_append, List.count_singleton]
    simp only [beq_iff_eq]
    omega
  case goesOn =>
    intro h
    obtain ⟨hseq, hr⟩ := hp.goesOn h
    exact ⟨hseq, hr.trans hreplies⟩
  case ends =>
    intro h
    obtain ⟨hseq, hr⟩ := hp.ends h
    exact ⟨hseq, by rw [hr, hreplies]⟩
  case coherent => exact hp.coherent

/-- The first step of a run. -/
theorem run_succ_first {s t : State} {n : Nat} (h : Host.Core.run Sys2Proof.core (n + 1) s = .next t) :
    ∃ u, step s = .next u ∧ Host.Core.run Sys2Proof.core n u = .next t := by
  simp only [Host.Core.run] at h
  split at h
  · next u hs => exact ⟨u, hs, h⟩
  · cases h
  · cases h

/-- The last step of a run. -/
theorem run_succ_last {s t : State} {n : Nat} (h : Host.Core.run Sys2Proof.core (n + 1) s = .next t) :
    ∃ u, Host.Core.run Sys2Proof.core n s = .next u ∧ step u = .next t := by
  induction n generalizing s with
  | zero =>
    obtain ⟨_, hs, he⟩ := run_succ_first h
    cases he
    exact ⟨s, rfl, hs⟩
  | succ n ih =>
    obtain ⟨_, hs, he⟩ := run_succ_first h
    rw [run_succ n hs]
    exact ih he

/-- R101: a micro-step after which no fault is recorded had its write succeed. -/
theorem nextAnswer_of_unfaulted {s : State} {job : Job} {k : Nat} {w : Work} (hc : s.Coherent)
    (hq : s.seq = .running job k w) (h : (microStep s).fault = none) : s.nextAnswer = true := by
  have hk : k < job.program.length := (program_length job).symm ▸ position_lt_of_coherent hc hq
  rw [microStep_running hq (List.getElem?_eq_getElem hk)] at h
  by_contra ha
  rw [perform_fails (by simpa using ha)] at h
  cases h

/-- n steps of a running operation whose callers keep R221, with no fault recorded in the end, are n successful writes. -/
theorem run_driven {s t : State} {job : Job} {k n : Nat} {w : Work} (hc : s.Coherent) (hf : s.fault = none)
    (hq : s.seq = .running job k w) (hcalls : dutiful s.calls = true) (hn : k + n ≤ job.program.length)
    (h : Host.Core.run Sys2Proof.core n s = .next t) (ht : t.fault = none) : Driven s t job k n := by
  induction n generalizing t with
  | zero =>
    cases h
    exact .zero hc hf hq
  | succ n ih =>
    obtain ⟨u, hu, hstep⟩ := run_succ_last h
    obtain ⟨huf, -⟩ := step_next hstep
    have hd := ih (by omega) hu huf
    have hlt : k + n < job.program.length := by omega
    obtain ⟨⟨w', hrun⟩, -⟩ := hd.goesOn hlt
    rw [step_micro huf (takeCall_none_of_dutiful (hd.calls ▸ hcalls) hrun)] at hstep
    cases hstep
    have hw := List.getElem?_eq_getElem (position_lt_of_coherent hd.coherent hrun)
    obtain ⟨m, hm, hp⟩ := microStep_ok hd.coherent huf hrun hw (nextAnswer_of_unfaulted hd.coherent hrun ht)
    exact hd.succ hlt hw hm hp

/-- An idle block executes the request it receives. -/
theorem step_of_receives {s : State} {i : Instr} {rest : List Call} (h : s.Receives i rest) :
    step s = exec i (s.setCalls rest) := by
  obtain ⟨⟨hf, hq⟩, -, c, hc, hi⟩ := h
  exact step_due hf hc (by rw [hq]; rfl) hi

/-- Acceptance and write 0 are one step (log entry 1): a run that launches an operation is a run of the accepted
operation. -/
theorem run_of_launch {s : State} {i : Instr} {job : Job} {rest : List Call} (n : Nat) (hr : s.Receives i rest)
    (hl : exec i (s.setCalls rest) = .next ((s.setCalls rest).launch job)) :
    Host.Core.run Sys2Proof.core (n + 1) s = Host.Core.run Sys2Proof.core (n + 1) ((s.setCalls rest).start job) := by
  have hwaits : ((s.setCalls rest).start job).takeCall = none := by
    obtain ⟨-, hdutiful, -⟩ := hr
    exact takeCall_none_of_dutiful hdutiful (State.start_seq _ _)
  have hf : ((s.setCalls rest).start job).fault = none := by
    obtain ⟨⟨hf, -⟩, -⟩ := hr
    exact hf
  rw [run_succ n ((step_of_receives hr).trans hl), run_succ n (step_micro hf hwaits)]
  rfl

/-- SET_DISPLAY on a ready block is launched, or faults for an open transaction (R105). -/
theorem exec_setDisplay_ready {s : State} (hr : s.Ready) (f : Frame) :
    exec (.setDisplay f.slots f.colon f.bright3) s =
      requireTxn .setDisplay false s (s.launch (.setDisplay f)) := by
  obtain ⟨hf, hq⟩ := hr
  exact accept_ready hf hq

/-- The end of a SET_DISPLAY that no fault ended. Its 213 writes use up as many answers, and a free value for each write past
them; another is used at acceptance, and one at the end of each of the seven bytes. -/
theorem setDisplay_end {s t : State} {f : Frame} {rest : List Call}
    (hr : s.Receives (.setDisplay f.slots f.colon f.bright3) rest)
    (h : Host.Core.run Sys2Proof.core 213 s = .next t) (ht : t.fault = none) :
    t = { s with
      clk := some true, dio := some true, trace := s.trace ++ wSet f, replies := s.replies ++ [.ok .none], calls := rest,
      answers := s.answers.drop 213, draws := s.draws + 1 + (213 - s.answers.length) + 7 } := by
  have ⟨⟨hf, hq⟩, hdutiful, _⟩ := hr
  have hexec := exec_setDisplay_ready (s := s.setCalls rest) ⟨hf, hq⟩ f
  by_cases htxn : s.txn = false
  case neg =>
    have hstep : step s = .next _ := ((step_of_receives hr).trans hexec).trans (requireTxn_broken htxn)
    rw [run_succ 212 hstep] at h
    obtain ⟨hfalse, -⟩ := run_faulted 212 (State.raiseFault_fault _ _) h
    cases hfalse
  rw [run_of_launch 212 hr (hexec.trans (requireTxn_held htxn))] at h
  have hlen : (Job.setDisplay f).program.length = 213 := (program_length _).trans (update_length rfl)
  have hd := run_driven (coherent_start (s.setCalls rest) (.setDisplay f) hf) hf (State.start_seq _ _) hdutiful
    hlen.ge h ht
  have hwave : ((Job.setDisplay f).waveform.drop 0).take 213 = wSet f :=
    List.take_of_length_le (update_length (job := .setDisplay f) rfl).le
  have hafters : ((Job.setDisplay f).afters.drop 0).take 213 = updateAfters.take 213 :=
    congrArg (List.take 213) (afters_of_update rfl)
  have hclosed : (updateAfters.take 213).foldl txnAfter false = false := by decide +kernel
  have hbytes : (updateAfters.take 213).count .sendDone = 7 := by decide +kernel
  obtain ⟨hidle, hreplies⟩ := hd.ends (by omega)
  have hlines : (t.clk, t.dio) = (some true, some true) := by
    rw [hd.lines, hwave]
    exact driveLines_update (job := .setDisplay f) rfl _
  apply State.eq_of_fields
  case clk => exact congrArg Prod.fst hlines
  case dio => exact congrArg Prod.snd hlines
  case txn => rw [hd.txn, hafters, State.start_txn, State.setCalls_txn, htxn, hclosed]
  case fault => rw [ht, hf]
  case trace => rw [hd.trace, hwave, State.start_trace, State.setCalls_trace]
  case seq => rw [hidle, hq]
  case refused => exact hd.refused
  case replies => exact hreplies
  case calls => exact hd.calls
  case answers => exact hd.answers
  case draws =>
    rw [hd.draws, hafters, hbytes, State.start_draws, State.start_answers, State.setCalls_draws, State.setCalls_answers]

end Sys2Proof.Machine

open Sys2Proof Sys2Proof.Machine

/-- Settles O23: `setDisplay_end` gives both end states, and only the trace in it names the frame. -/
theorem frameIsNotKept : Obligations.FrameIsNotKept := by
  intro s₁ s₂ t₁ t₂ f g rest hr₁ hr₂ hs h₁ h₂ hf₁ hf₂
  rw [setDisplay_end hr₁ h₁ hf₁, setDisplay_end hr₂ h₂ hf₂, hs]

end

section
/-! PROOFS. The opcode table's wire rows as instructions (30_encoding.md R81 to R85, R88): one equation for all four, the
byte a row has and the place it needs; and so which bytes an instruction other than SEND_BYTE starts sending. -/

namespace Sys2Proof.Machine

/-- R82 to R85: the byte of a wire row. -/
def wireByte : Instr → Option Byte
  | .cmdModeAutoinc => some modeByte
  | .cmdAddr0 => some addrByte
  | .cmdDisplayOn b => some (ctrlByte b)
  | .dataSegment x y => some (segmentByte x y)
  | _ => none

/-- A wire row transmits its byte where it stands in its place. -/
theorem exec_wireByte {i : Instr} {b : Byte} (h : wireByte i = some b) (s : State) :
    ∃ inPlace, exec i s = sendWireByte inPlace b s ∧ (inPlace = true ↔ StandsInPlace i s.openBytes) := by
  cases i with
  | cmdModeAutoinc | cmdAddr0 | cmdDisplayOn =>
    cases h
    exact ⟨commandPlace s.openBytes, rfl, by simp [commandPlace_iff, StandsInPlace]⟩
  | dataSegment =>
    cases h
    exact ⟨dataPlace s.openBytes, rfl, by simp [dataPlace_iff, StandsInPlace, addrByte]⟩
  | _ => cases h

/-- R69, R88: out of its place in an open transaction a wire row is refused. -/
theorem exec_wireByte_misplaced {i : Instr} {b : Byte} {s : State} (h : wireByte i = some b) (hr : s.Ready)
    (htxn : s.txn = true) (hplace : ¬ StandsInPlace i s.openBytes) :
    exec i s = .next (s.refuse (.misplacedByte b)) := by
  obtain ⟨hf, hq⟩ := hr
  obtain ⟨inPlace, hexec, hiff⟩ := exec_wireByte h s
  obtain rfl : inPlace = false := by simpa [← hiff] using hplace
  rw [hexec, sendWireByte, accept_ready hf hq]
  exact requireTxn_held htxn

/-- R86, R107: a display-control byte is 0x88 plus the brightness. -/
theorem ctrlByte_toNat (x : BitVec 3) : (ctrlByte x).toNat = 0x88 + x.toNat := by
  revert x
  decide

/-- R85: a segment byte is the table's two fields, bit 7 above the seven segments. -/
theorem segmentByte_toNat (h : Bool) (x : BitVec 7) : (segmentByte h x).toNat = 128 * h.toNat + x.toNat := by
  have hx : x.toNat < 2 ^ 7 := x.isLt
  have hzext : (x.zeroExtend 8).toNat = x.toNat := BitVec.toNat_setWidth_of_le (by decide)
  cases h with
  | false => simpa [segmentByte] using hzext
  | true =>
    have hor := Nat.two_pow_add_eq_or_of_lt hx 1
    simp only [segmentByte, if_true, BitVec.toNat_or, hzext]
    exact hor.symm

/-- The table's rows and their bytes, written out (R82 to R85). -/
theorem wireByte_of_row {i : Instr} {b : Byte}
    (h : (i = .cmdModeAutoinc ∧ b = 0x40#8) ∨ (i = .cmdAddr0 ∧ b = 0xC0#8) ∨
      (∃ x : BitVec 3, i = .cmdDisplayOn x ∧ b.toNat = 0x88 + x.toNat) ∨
      (∃ (h : Bool) (x : BitVec 7), i = .dataSegment h x ∧ b.toNat = 128 * h.toNat + x.toNat)) :
    wireByte i = some b := by
  obtain ⟨rfl, rfl⟩ | ⟨rfl, rfl⟩ | ⟨x, rfl, hb⟩ | ⟨h, x, rfl, hb⟩ := h
  · rfl
  · rfl
  · exact congrArg some (BitVec.eq_of_toNat_eq ((ctrlByte_toNat x).trans hb.symm))
  · exact congrArg some (BitVec.eq_of_toNat_eq ((segmentByte_toNat h x).trans hb.symm))

/-- R88: the bytes the block sends in a command position. -/
def ListedCommand (b : Byte) : Prop := b = 0x40#8 ∨ b = 0xC0#8 ∨ (0x88 ≤ b.toNat ∧ b.toNat ≤ 0x8F)

theorem listedCommand_modeByte : ListedCommand modeByte := .inl rfl

theorem listedCommand_addrByte : ListedCommand addrByte := .inr (.inl rfl)

theorem listedCommand_ctrlByte (x : BitVec 3) : ListedCommand (ctrlByte x) := by
  have hx : x.toNat < 8 := x.isLt
  refine .inr (.inr ?_)
  rw [ctrlByte_toNat]
  omega

/-- A wire row in its place: a listed command byte that comes first, or a byte after 0xC0 and fewer than four others. -/
theorem listed_or_data_of_standsInPlace {i : Instr} {b : Byte} {sent : Option (List Byte)} (hi : wireByte i = some b)
    (h : StandsInPlace i sent) :
    (sent = some [] ∧ ListedCommand b) ∨ ∃ rest, rest.length < 4 ∧ sent = some (0xC0#8 :: rest) := by
  obtain ⟨rfl | rfl | ⟨x, rfl⟩, hsent⟩ | ⟨-, hdata⟩ := h
  · cases hi
    exact .inl ⟨hsent, listedCommand_modeByte⟩
  · cases hi
    exact .inl ⟨hsent, listedCommand_addrByte⟩
  · cases hi
    exact .inl ⟨hsent, listedCommand_ctrlByte x⟩
  · exact .inr hdata

/-- R31: `advance` goes on with its own operation. -/
theorem job_of_advance_running {s : State} {job job' : Job} {k k' : Nat} {w w' : Work}
    (h : (s.advance job k w).seq = .running job' k' w') : job = job' := by
  obtain ⟨-, e⟩ | ⟨-, e⟩ := advance_cases s job k w
  · cases e ▸ h
    rfl
  · cases e ▸ h

/-- A micro-step leaves no other operation running than the one it found. -/
theorem job_of_microStep_running {s : State} {job : Job} {k : Nat} {w : Work} (h : (microStep s).seq = .running job k w) :
    ∃ k' w', s.seq = .running job k' w' := by
  obtain ⟨-, e⟩ | ⟨_, _, _, -, -, e⟩ | ⟨_, k', w', _, hq, -, -, e⟩ | ⟨_, _, _, _, -, -, -, e⟩ := microStep_cases s
  · exact ⟨k, w, e ▸ h⟩
  · cases e ▸ h
  · obtain rfl := job_of_advance_running (e ▸ h)
    exact ⟨k', w', hq⟩
  · cases e ▸ h

/-- What runs after an operation is launched is that operation. -/
theorem job_of_launch_running {s : State} {job job' : Job} {k : Nat} {w : Work}
    (h : (s.launch job).seq = .running job' k w) : job = job' := by
  obtain ⟨_, _, hq⟩ := job_of_microStep_running h
  cases hq
  rfl

/-- R72, R82 to R85: SEND_BYTE and the wire rows are what launches the sending of a byte. -/
theorem sendByte_or_wireByte_of_launches {i : Instr} {b : Byte} {n : Bool} (h : launches i (.sendByte b) n) :
    i = .sendByte b ∨ wireByte i = some b := by
  cases i with
  | sendByte =>
    obtain ⟨⟨⟩, -⟩ := h
    exact .inl rfl
  | cmdModeAutoinc | cmdAddr0 | cmdDisplayOn | dataSegment =>
    obtain ⟨⟨⟩, -⟩ := h
    exact .inr rfl
  | beginTxn | endTxn | setDisplay =>
    obtain ⟨⟨⟩, -⟩ := h
  | reserved | encodeChar | encodeInt | encodeStr | showInt | showStr => exact h.elim

/-- On a ready block, what starts the sending of b is SEND_BYTE of b or the wire row of b. -/
theorem sendByte_or_wireByte_of_exec {s t : State} {i : Instr} {b : Byte} {k : Nat} {w : Work} (hr : s.Ready)
    (h : exec i s = .next t) (ht : t.seq = .running (.sendByte b) k w) : i = .sendByte b ∨ wireByte i = some b := by
  obtain ⟨-, hq⟩ := hr
  obtain ⟨-, ⟨_, _, _, hq', -⟩ | ⟨-, ⟨_, rfl⟩ | ⟨_, rfl⟩ | ⟨job, _, hl, -, rfl⟩ | ⟨job, hv, -, rfl⟩ | ⟨_, -, rfl⟩⟩⟩ :=
    exec_next h
  · cases hq.symm.trans hq'
  · cases hq.symm.trans ht
  · cases ht
  · obtain rfl := job_of_launch_running ht
    exact sendByte_or_wireByte_of_launches hl
  · cases ht
    cases isUpdate_of_validates hv
  · cases hq.symm.trans ht

/-- A wire row that starts sending its byte stands in its place. -/
theorem standsInPlace_of_exec_running {s t : State} {i : Instr} {b : Byte} {job : Job} {k : Nat} {w : Work}
    (hr : s.Ready) (hi : wireByte i = some b) (h : exec i s = .next t) (ht : t.seq = .running job k w) :
    StandsInPlace i s.openBytes := by
  obtain ⟨hf, hq⟩ := hr
  obtain ⟨inPlace, hexec, hiff⟩ := exec_wireByte hi s
  obtain rfl | ⟨-, ⟨hin, -⟩ | ⟨-, rfl⟩⟩ := sendWireByte_next hf hq (hexec.symm.trans h)
  · cases ht
  · exact hiff.1 hin
  · cases hq.symm.trans ht

end Sys2Proof.Machine

open Sys2Proof Sys2Proof.Machine

/-- Settles O10: the row's byte is the one named, and out of its place it is refused. -/
theorem wireByteOutOfPlaceIsNotSent : Obligations.WireByteOutOfPlaceIsNotSent :=
  fun _ _ _ hr htxn hplace hrow => exec_wireByte_misplaced (wireByte_of_row hrow) hr htxn hplace

end

section
/-! PROOFS. The first bytes the listener hears (30_encoding.md R91, R92): as long as no start cuts a transaction, a first byte
once heard stays heard, so a cut trace has no other first bytes than the whole one (40_bus_driver.md R105, R112). -/

namespace Sys2Proof.Machine

/-- The listener has heard b first in a transaction, closed or open. -/
def Listener.HeardFirst (l : Listener) (b : Byte) : Prop :=
  ∃ bytes ∈ l.transactions ++ l.hearing.toList.map Hearing.bytes, b ∈ bytes.head?

/-- In a closed transaction, or in the open one. -/
theorem Listener.heardFirst_iff (l : Listener) (b : Byte) :
    l.HeardFirst b ↔ (∃ h ∈ l.heard, b ∈ h.bytes.head?) ∨ ∃ h, l.hearing = some h ∧ b ∈ h.bytes.head? := by
  simp [Listener.HeardFirst, Listener.transactions, or_and_right, exists_or]

/-- R91: a sample changes no byte already complete. -/
theorem Hearing.head?_sample {h : Hearing} {b : Byte} (v : Bit) (hb : b ∈ h.bytes.head?) :
    b ∈ (h.sample v).bytes.head? := by
  unfold Hearing.sample
  split
  · simp [List.head?_append, Option.mem_def.1 hb]
  · exact hb

theorem Listener.HeardFirst.rise {l : Listener} {b : Byte} (hb : l.HeardFirst b) : l.rise.HeardFirst b := by
  unfold Listener.rise
  split
  · exact hb
  · next h hh =>
    obtain hclosed | ⟨_, he, hopen⟩ := (l.heardFirst_iff b).1 hb
    · exact (Listener.heardFirst_iff _ b).2 (.inl hclosed)
    · cases hh.symm.trans he
      exact (Listener.heardFirst_iff _ b).2 (.inr ⟨_, rfl, Hearing.head?_sample _ hopen⟩)

/-- A start that opens no transaction inside another loses no byte. -/
theorem Listener.HeardFirst.startEdge {l : Listener} {b : Byte} (hb : l.HeardFirst b)
    (hn : l.startEdge.nestedStart = false) : l.startEdge.HeardFirst b := by
  obtain ⟨-, hnone⟩ : l.nestedStart = false ∧ l.hearing = none := by simpa [Listener.startEdge] using hn
  obtain hclosed | ⟨_, he, -⟩ := (l.heardFirst_iff b).1 hb
  · exact (Listener.heardFirst_iff _ b).2 (.inl hclosed)
  · cases hnone.symm.trans he

theorem Listener.HeardFirst.stopEdge {l : Listener} {b : Byte} (hb : l.HeardFirst b) : l.stopEdge.HeardFirst b := by
  unfold Listener.stopEdge
  split
  · exact hb
  · next h hh =>
    obtain ⟨x, hx, hclosed⟩ | ⟨_, he, hopen⟩ := (l.heardFirst_iff b).1 hb
    · exact (Listener.heardFirst_iff _ b).2 (.inl ⟨x, by simp [hx], hclosed⟩)
    · cases hh.symm.trans he
      exact (Listener.heardFirst_iff _ b).2 (.inl ⟨⟨h.bytes, h.rels, h.samples.length⟩, by simp, hopen⟩)

/-- R90: whatever edge the next write makes, a first byte stays heard. -/
theorem Listener.HeardFirst.hear {l : Listener} {b : Byte} (hb : l.HeardFirst b) (w : PinWrite)
    (hn : (l.hear w).nestedStart = false) : (l.hear w).HeardFirst b := by
  obtain ⟨p, v⟩ := w
  suffices hedge : (l.edge (p, v)).HeardFirst b by cases p <;> exact hedge
  cases p with
  | CLK =>
    simp only [Listener.edge]
    split
    · exact hb.rise
    · exact hb
  | DIO =>
    simp only [Listener.hear, Listener.edge] at hn ⊢
    split
    · next hstart => exact hb.startEdge (by simpa [hstart] using hn)
    · split
      · exact hb.stopEdge
      · exact hb

theorem wellFramed_of_hearAll {l : Listener} {ws : List PinWrite} (h : (l.hearAll ws).wellFramed = true) :
    l.wellFramed = true := by
  induction ws generalizing l with
  | nil => exact h
  | cons w ws ih => exact wellFramed_of_hear l w (ih h)

theorem nestedStart_of_wellFramed {l : Listener} (h : l.wellFramed = true) : l.nestedStart = false := by
  simp only [Listener.wellFramed, Bool.and_eq_true, Bool.not_eq_true'] at h
  tauto

theorem Listener.HeardFirst.hearAll {l : Listener} {b : Byte} (hb : l.HeardFirst b) {ws : List PinWrite}
    (h : (l.hearAll ws).wellFramed = true) : (l.hearAll ws).HeardFirst b := by
  induction ws generalizing l with
  | nil => exact hb
  | cons w ws ih => exact ih (hb.hear w (nestedStart_of_wellFramed (wellFramed_of_hearAll h))) h

/-- A first byte heard in a cut trace is heard in the whole, if that is well framed. -/
theorem heardFirst_of_take {trace : List PinWrite} {n : Nat} {b : Byte} (h : (listen trace).wellFramed = true)
    (hb : (listen (trace.take n)).HeardFirst b) : (listen trace).HeardFirst b := by
  have hcut : listen trace = (listen (trace.take n)).hearAll (trace.drop n) := by
    rw [listen, listen, ← hearAll_append, List.take_append_drop]
  rw [hcut] at h ⊢
  exact hb.hearAll h

/-- R92, R105: the listener hears an update as its three transactions. -/
theorem listen_wSet (f : Frame) :
    listen (wSet f) =
      { lclk := some true, ldio := some true,
        heard := [⟨[modeByte], [true], 1⟩, ⟨dataBytes f.slots f.colon, List.replicate 5 true, 1⟩,
          ⟨[ctrlByte f.bright3], [true], 1⟩] } := by
  simp only [listen, wSet, hearAll_append]
  rw [hear_wTxn _ [modeByte] (by simp) rfl (.inl rfl),
    hear_wTxn _ (dataBytes f.slots f.colon) (by simp [dataBytes]) rfl (.inr rfl),
    hear_wTxn _ [ctrlByte f.bright3] (by simp) rfl (.inr rfl)]
  rfl

/-- R88: no other first byte than a listed command is heard in an update, wherever it is cut. -/
theorem listedCommand_of_heardFirst_take {f : Frame} {n : Nat} {b : Byte}
    (hb : (listen ((wSet f).take n)).HeardFirst b) : ListedCommand b := by
  have hall := heardFirst_of_take (by rw [listen_wSet]; rfl) hb
  rw [listen_wSet, Listener.heardFirst_iff] at hall
  obtain rfl | rfl | rfl : modeByte = b ∨ addrByte = b ∨ ctrlByte f.bright3 = b := by simpa [dataBytes] using hall
  · exact listedCommand_modeByte
  · exact listedCommand_addrByte
  · exact listedCommand_ctrlByte _

end Sys2Proof.Machine

open Sys2Proof Sys2Proof.Machine

/-- Settles O11: what starts sending is SEND_BYTE or a wire row in its place; and a first byte heard in a cut update is one of
the whole update's three. -/
theorem onlyListedCommandBytesAreSent : Obligations.OnlyListedCommandBytesAreSent := by
  constructor
  · intro s t i b k w hr hne h ht
    have hi : wireByte i = some b := (sendByte_or_wireByte_of_exec hr h ht).resolve_left (hne b)
    exact listed_or_data_of_standsInPlace hi (standsInPlace_of_exec_running hr hi h ht)
  · intro f n bytes hbytes b hb
    exact listedCommand_of_heardFirst_take ⟨bytes, hbytes, hb⟩

end

section
/-! PROOFS. The bit order on the wire (20_memory.md R59). -/

namespace Sys2Proof.Machine

/-- The levels a waveform drives on the data line, in order. -/
def dioLevels (ws : List PinWrite) : List Bit := (ws.filter fun w => decide (w.1 = .DIO)).map Prod.snd

@[simp] theorem dioLevels_append (a b : List PinWrite) : dioLevels (a ++ b) = dioLevels a ++ dioLevels b := by
  simp [dioLevels]

/-- R103: of a bit's three writes one is on the data line, and it drives the bit. -/
@[simp] theorem dioLevels_wBit (v : Bit) : dioLevels (wBit v) = [v] := rfl

/-- R59, R103: a byte's bits, least significant first, then the release. -/
theorem dioLevels_wSend (b : Byte) : dioLevels (wSend b) = (List.range 8).map (fun n => b.getLsbD n) ++ [true] := by
  simp only [wSend, dioLevels_append, dioLevels_wBit]
  rfl

end Sys2Proof.Machine

open Sys2Proof Sys2Proof.Machine

/-- Settles O52: each turn of SEND_BYTE's loop drives the next bit; the source's example is the case of 0b10110010. -/
theorem bytesAreSentLeastSignificantBitFirst : Obligations.BytesAreSentLeastSignificantBitFirst :=
  ⟨dioLevels_wSend, congrArg (List.take 8) (dioLevels_wSend 0b10110010#8)⟩

end

section
/-! PROOFS. The decoder and the encoder of the opcode table (30_encoding.md R70 to R73, R82 to R85): a selector is one of the
nine operations' or reserved, a wire byte is its table fields put together again, and every word has at most one row. -/

namespace Sys2Proof

/-! ### Request records -/

/-- R72, R73: a selector is that of one of the nine operations, or reserved. -/
theorem selector_cases (op : Selector) : (∃ o : Op, op = o.selector) ∨ 9 ≤ op.toNat := by
  have hnine : ∀ op : Selector, op.toNat < 9 →
      op ∈ [Op.beginTxn, .sendByte, .endTxn, .setDisplay, .encodeChar, .encodeInt, .encodeStr, .showInt,
        .showStr].map Op.selector := by decide
  by_cases h : op.toNat < 9
  · obtain ⟨o, -, ho⟩ := List.mem_map.1 (hnine op h)
    exact .inl ⟨o, ho.symm⟩
  · exact .inr (Nat.not_lt.1 h)

/-- R73: a reserved selector decodes to no operation. -/
theorem decodeRequest_reserved {r : Request} (h : 9 ≤ r.op.toNat) : decodeRequest r = .reserved r.op := by
  unfold decodeRequest
  split
  case h_10 => rfl
  all_goals omega

/-- R72 lists no operand for a reserved selector. -/
theorem listed_reserved {r : Request} (h : 9 ≤ r.op.toNat) : r.listed = { op := r.op } := by
  unfold Request.listed
  split
  case h_8 => rfl
  all_goals omega

theorem wellFormed_decodeRequest (r : Request) : (decodeRequest r).wellFormed = true := by
  obtain ⟨op, _⟩ := r
  obtain ⟨o, rfl⟩ | h := selector_cases op
  · cases o <;> rfl
  · rw [decodeRequest_reserved h]
    exact decide_eq_true h

/-- R71, R72: `encode` keeps the fields an operation reads and no others. -/
theorem encode_decodeRequest (r : Request) : encode (decodeRequest r) = .req r.listed := by
  obtain ⟨op, _⟩ := r
  obtain ⟨o, rfl⟩ | h := selector_cases op
  · cases o <;> rfl
  · rw [decodeRequest_reserved h, listed_reserved h]
    rfl

/-! ### Wire bytes -/

/-- R84: CMD_DISPLAY_ON's five fixed bits and its three brightness bits make up the byte. -/
theorem displayOn_byte {b : Byte} (h : b &&& 0xF8#8 = 0x88#8) : 0b10001#5 ++ b.extractLsb' 0 3 = b := by
  have hfixed : b.extractLsb' 3 5 = 0b10001#5 := by
    have hmasked := congrArg (BitVec.extractLsb' 3 5) h
    rw [BitVec.extractLsb'_and] at hmasked
    exact BitVec.and_allOnes.symm.trans hmasked
  rw [← hfixed]
  exact (BitVec.extractLsb'_append_extractLsb'_eq_extractLsb' rfl).trans BitVec.extractLsb'_eq_self

/-- R85: DATA_SEGMENT's two fields make up the byte. -/
theorem segment_byte (b : Byte) : BitVec.ofBool (b.getLsbD 7) ++ b.extractLsb' 0 7 = b :=
  BitVec.cons_msb_setWidth b

theorem decodeCommand_displayOn (x : BitVec 3) : decodeCommand (0b10001#5 ++ x) = .ok (.cmdDisplayOn x) := by
  revert x
  decide

theorem decodeData_segment (h : Bool) (x : BitVec 7) : decodeData (BitVec.ofBool h ++ x) = .dataSegment h x := by
  have hbit7 : (BitVec.ofBool h ++ x).getLsbD 7 = h := by
    rw [BitVec.getLsbD_append]
    simp
  rw [decodeData, hbit7, BitVec.extractLsb'_append_eq_right]

/-- R82 to R84, R88: the three command rows, and the bytes that have none. -/
theorem decodeCommand_cases (b : Byte) :
    (b = 0x40#8 ∧ decodeCommand b = .ok .cmdModeAutoinc) ∨ (b = 0xC0#8 ∧ decodeCommand b = .ok .cmdAddr0) ∨
      (b &&& 0xF8#8 = 0x88#8 ∧ decodeCommand b = .ok (.cmdDisplayOn (b.extractLsb' 0 3))) ∨
      (b ≠ 0x40#8 ∧ b ≠ 0xC0#8 ∧ b &&& 0xF8#8 ≠ 0x88#8 ∧ decodeCommand b = .error (.noCommandRow b)) := by
  unfold decodeCommand
  split_ifs with hmode haddr hon
  · exact .inl ⟨hmode, rfl⟩
  · exact .inr (.inl ⟨haddr, rfl⟩)
  · exact .inr (.inr (.inl ⟨hon, rfl⟩))
  · exact .inr (.inr (.inr ⟨hmode, haddr, hon, rfl⟩))

/-! ### Words of the table -/

/-- No bit or operand of a well-formed instruction is dropped by its code word. -/
theorem decode_encode {i : Instr} (h : i.wellFormed = true) : decode (encode i) = .ok i := by
  cases i with
  | reserved => exact congrArg Except.ok (decodeRequest_reserved (of_decide_eq_true h))
  | cmdDisplayOn x => exact decodeCommand_displayOn x
  | dataSegment bit7 x => exact congrArg Except.ok (decodeData_segment bit7 x)
  | _ => rfl

/-- A word that decodes is a well-formed instruction's own, but for the fields its operation does not have. -/
theorem encode_of_decode {w : CodeWord} {i : Instr} (h : decode w = .ok i) :
    i.wellFormed = true ∧ encode i = w.listed := by
  cases w with
  | req r =>
    cases h
    exact ⟨wellFormed_decodeRequest r, encode_decodeRequest r⟩
  | wireCmd b =>
    obtain ⟨rfl, hd⟩ | ⟨rfl, hd⟩ | ⟨hon, hd⟩ | ⟨-, -, -, hd⟩ := decodeCommand_cases b <;> cases hd.symm.trans h
    · exact ⟨rfl, rfl⟩
    · exact ⟨rfl, rfl⟩
    · exact ⟨rfl, congrArg CodeWord.wireCmd (displayOn_byte hon)⟩
  | wireData b =>
    cases h
    exact ⟨rfl, congrArg CodeWord.wireData (segment_byte b)⟩

/-- The names of the rows of the table that a word matches. -/
def CodeWord.rowNames (w : CodeWord) : List String := (opcodeTable.filter fun row => row.matches w).map Row.mnemonic

theorem mnemonic_decodeRequest (r : Request) :
    (decodeRequest r).mnemonic = (decodeRequest { op := r.op }).mnemonic := by
  obtain ⟨op, _⟩ := r
  obtain ⟨o, rfl⟩ | h := selector_cases op
  · cases o <;> rfl
  · rw [decodeRequest_reserved h, decodeRequest_reserved h]

/-- R72, R73: one row per selector, whatever the operand fields. -/
theorem rowNames_req (r : Request) : (CodeWord.req r).rowNames = [(decodeRequest r).mnemonic] := by
  have hselector : ∀ op : Selector, (CodeWord.req { op := op }).rowNames = [(decodeRequest { op := op }).mnemonic] := by
    decide
  rw [mnemonic_decodeRequest]
  exact hselector r.op

/-- R84: the eight CMD_DISPLAY_ON bytes match the third command row and no other. -/
theorem rowNames_displayOn (x : BitVec 3) : (CodeWord.wireCmd (0b10001#5 ++ x)).rowNames = ["CMD_DISPLAY_ON"] := by
  revert x
  decide

/-- R85: every byte matches the one segment row, and no other row has its format. -/
theorem rowNames_wireData (b : Byte) : (CodeWord.wireData b).rowNames = ["DATA_SEGMENT"] := by
  simp [CodeWord.rowNames, opcodeTable, Row.matches, CodeWord.format, Nat.land]

/-- A word that decodes matches exactly one row, its mnemonic's. -/
theorem rowNames_of_decode {w : CodeWord} {i : Instr} (h : decode w = .ok i) : w.rowNames = [i.mnemonic] := by
  cases w with
  | req r =>
    cases h
    exact rowNames_req r
  | wireCmd b =>
    obtain ⟨rfl, hd⟩ | ⟨rfl, hd⟩ | ⟨hon, hd⟩ | ⟨-, -, -, hd⟩ := decodeCommand_cases b <;> cases hd.symm.trans h
    · decide
    · decide
    · rw [← displayOn_byte hon]
      exact rowNames_displayOn _
  | wireData b =>
    cases h
    exact rowNames_wireData b

/-- A row's match and mask test, on bytes. -/
theorem toNat_and_eq_iff (b mask bits : Byte) : b.toNat &&& mask.toNat = bits.toNat ↔ b &&& mask = bits := by
  rw [← BitVec.toNat_inj, BitVec.toNat_and]

/-- R88: a word that does not decode is a command byte other than 0x40, 0xC0 and 0x88 to 0x8F, and has no row. -/
theorem no_row_of_decode_error {w : CodeWord} {e : DecodeError} (h : decode w = .error e) :
    opcodeTable.filter (fun row => row.matches w) = [] := by
  cases w with
  | req r => cases h
  | wireData b => cases h
  | wireCmd b =>
    obtain ⟨-, hd⟩ | ⟨-, hd⟩ | ⟨-, hd⟩ | ⟨hmode, haddr, hon, -⟩ := decodeCommand_cases b
    case inr.inr.inr =>
      have hrow1 : b.toNat &&& 0xFF ≠ 0x40 := fun hrow =>
        hmode (BitVec.and_allOnes.symm.trans ((toNat_and_eq_iff b 0xFF#8 0x40#8).1 hrow))
      have hrow2 : b.toNat &&& 0xFF ≠ 0xC0 := fun hrow =>
        haddr (BitVec.and_allOnes.symm.trans ((toNat_and_eq_iff b 0xFF#8 0xC0#8).1 hrow))
      have hrow3 : b.toNat &&& 0xF8 ≠ 0x88 := fun hrow => hon ((toNat_and_eq_iff b 0xF8#8 0x88#8).1 hrow)
      simp [opcodeTable, Row.matches, CodeWord.format, CodeWord.number, hrow1, hrow2, hrow3]
    all_goals cases hd.symm.trans h

end Sys2Proof

open Sys2Proof Sys2Proof.Machine

/-- Settles O1, row by row of the opcode table. -/
theorem decodeOfEncodeIsTheInstruction : Obligations.DecodeOfEncodeIsTheInstruction :=
  fun _ h => decode_encode h

/-- Settles O2: a request keeps its listed fields, a wire byte is its table fields put together again. -/
theorem encodeOfDecodeKeepsTheListedFields : Obligations.EncodeOfDecodeKeepsTheListedFields :=
  fun _ _ h => encode_of_decode h

/-- Settles O3: one row for each word that decodes, none for the command bytes R88 rejects. -/
theorem decodingFollowsTheOpcodeTable : Obligations.DecodingFollowsTheOpcodeTable :=
  ⟨fun _ _ h => rowNames_of_decode h, fun _ _ h => no_row_of_decode_error h⟩

/-- Settles O4: the decoder computes each word's instruction. -/
theorem wordsOfTheSpecDecode : Obligations.WordsOfTheSpecDecode :=
  ⟨rfl, rfl, rfl, rfl, rfl, rfl, rfl, rfl, rfl, rfl, rfl, rfl, rfl, rfl⟩

/-- Settles O35: no operation has the selector, and a ready block admits the request and refuses it. -/
theorem reservedSelectorIsRefused : Obligations.ReservedSelectorIsRefused :=
  fun _ _ ⟨hf, hq⟩ hop => ⟨congrArg Except.ok (decodeRequest_reserved hop), accept_ready hf hq⟩

end

section
/-! PROOFS. The bits of an update's bytes (30_encoding.md R86, R87; 40_bus_driver.md R106, R107) and what the listener hears
of a whole update and of a start (30_encoding.md R90 to R92, R110, R217, R235). -/

namespace Sys2Proof.Machine

/-! ### The bytes -/

/-- R87: the colon is OR'ed into bit 7 of slot 1 and into no other bit. -/
theorem colonByte_getLsbD (x : Slots) (colon : Bool) (n : Nat) :
    (colonByte x colon).getLsbD n = (x.s1.getLsbD n || (colon && decide (n = 7))) := by
  have hcolon : (0x80#8).getLsbD n = decide (n = 7) := by
    have htwoPow : (BitVec.twoPow 8 7).getLsbD n = (decide (7 < 8) && decide (7 = n)) := BitVec.getLsbD_twoPow 7 n
    exact htwoPow.trans (by simp [eq_comm])
  cases colon with
  | false => simp [colonByte]
  | true => simp [colonByte, hcolon]

/-- R107: the high bits of a display-control byte say display on. -/
theorem ctrlByte_and (x : BitVec 3) : ctrlByte x &&& 0xF8#8 = 0x88#8 := by
  revert x
  decide

/-- R107: its low bits are the brightness. -/
theorem extractLsb'_ctrlByte (x : BitVec 3) : (ctrlByte x).extractLsb' 0 3 = x := by
  revert x
  decide

/-! ### A whole update -/

/-- The three transactions of an update as the listener hears them. -/
def updateHeard (f : Frame) : List Heard :=
  [⟨[modeByte], [true], 1⟩, ⟨dataBytes f.slots f.colon, List.replicate 5 true, 1⟩, ⟨[ctrlByte f.bright3], [true], 1⟩]

/-- R92, R105: from quiescent lines outside a transaction, an update is heard as its three transactions. -/
theorem hear_wSet (l : Listener) (f : Frame) (hh : l.hearing = none) (hq : quietLines (l.lclk, l.ldio)) :
    l.hearAll (wSet f) =
      { l with lclk := some true, ldio := some true, heard := l.heard ++ updateHeard f } := by
  have hdata : dataBytes f.slots f.colon ≠ [] := by simp [dataBytes]
  simp only [wSet, hearAll_append]
  rw [hear_wTxn l [modeByte] (by simp) hh hq, hear_wTxn _ _ hdata, hear_wTxn _ [ctrlByte f.bright3] (by simp)]
  · simp [updateHeard, dataBytes]
  · exact hh
  · exact .inr rfl
  · exact hh
  · exact .inr rfl

/-- R217: the reading of an update's transactions is its frame. -/
theorem intended_update (f : Frame) :
    intended ((updateHeard f).map Heard.bytes) =
      some ⟨⟨f.slots.s0, colonByte f.slots f.colon, f.slots.s2, f.slots.s3⟩, f.colon || f.slots.s1.getLsbD 7, f.bright3⟩ := by
  have hcolon : (colonByte f.slots f.colon).getLsbD 7 = (f.colon || f.slots.s1.getLsbD 7) := by
    simp [colonByte_getLsbD, Bool.or_comm, -BitVec.getLsbD_eq_getElem]
  rw [← hcolon]
  simp [updateHeard, dataBytes, intended, modeByte, addrByte, ctrlByte_and, extractLsb'_ctrlByte]

/-! ### A start -/

/-- R90: the first write of a start, D1, can be a stray stop; outside a transaction it is no more than that. -/
theorem hear_dio_high (l : Listener) (hh : l.hearing = none) :
    ∃ stray, l.hear (.DIO, true) = { l with ldio := some true, strayStop := stray } := by
  by_cases hstop : l.lclk = some true ∧ l.ldio = some false
  · exact ⟨true, by simp [Listener.hear, Listener.edge, hstop, Listener.stopEdge, hh]⟩
  · exact ⟨l.strayStop, by simp [Listener.hear, Listener.edge, hstop]⟩

/-- R91: a rising clock is not heard outside a transaction. -/
theorem hear_clk_high (l : Listener) (hh : l.hearing = none) : l.hear (.CLK, true) = { l with lclk := some true } := by
  simp [Listener.hear, Listener.edge, Listener.rise, hh]

/-- R235: with both lines driven to 1 first, the start is heard whatever their levels were. -/
theorem hear_wBegin_any (l : Listener) (hh : l.hearing = none) :
    ∃ stray, l.hearAll wBegin =
      { l with lclk := some false, ldio := some false, hearing := some ⟨[], [], []⟩, strayStop := stray } := by
  obtain ⟨stray, hstray⟩ := hear_dio_high l hh
  have hhigh : (l.hear (.DIO, true)).hear (.CLK, true) =
      { l with lclk := some true, ldio := some true, strayStop := stray } := by
    rw [hstray]
    exact hear_clk_high _ hh
  have hbegin : l.hearAll wBegin =
      (((l.hear (.DIO, true)).hear (.CLK, true)).hear (.DIO, false)).hear (.CLK, false) := rfl
  refine ⟨stray, ?_⟩
  rw [hbegin, hhigh]
  simp [Listener.hear, Listener.edge, Listener.startEdge, hh]

end Sys2Proof.Machine

open Sys2Proof Sys2Proof.Machine

/-- Settles O50: bit by bit, the OR of R87. -/
theorem colonIsOredIntoSlotOne : Obligations.ColonIsOredIntoSlotOne := by
  refine fun x => ⟨fun _ => rfl, fun _ => rfl, ?_, ?_, fun colon n hn => ?_⟩
  · simp [colonByte]
  · rw [colonByte_getLsbD]
    simp
  · rw [colonByte_getLsbD, decide_eq_false (by omega), Bool.and_false, Bool.or_false]

/-- Settles O57: one transaction after the other, and their bytes read back field by field. -/
theorem listenerHearsTheUpdate : Obligations.ListenerHearsTheUpdate := by
  intro l f hh hq
  refine ⟨hear_wSet l f hh hq, ?_⟩
  rw [listen_wSet]
  exact intended_update f

/-- Settles O58: outside a transaction the first two writes open none, and the third is the start. -/
theorem startIsHeardFromAnyLevels : Obligations.StartIsHeardFromAnyLevels := by
  intro l hh
  obtain ⟨stray, hbegin⟩ := hear_wBegin_any l hh
  rw [hbegin]
  exact ⟨rfl, rfl, rfl, rfl⟩

end

section
/-! PROOFS. The framing invariant (30_encoding.md R92, 40_bus_driver.md R110, R115) under every step of a block used through
the external interface: a trace that ends inside an update is the beginning of one the listener finds well framed. -/

namespace Sys2Proof.Machine

/-- R90: a listener that is heard an update's whole waveform has both lines at 1 and no transaction open. -/
theorem hear_update {l : Listener} {job : Job} (hu : job.isUpdate = true) (hw : l.wellFramed = true)
    (hh : l.hearing = none) (hq : quietLines (l.lclk, l.ldio)) :
    (l.hearAll job.waveform).wellFramed = true ∧ (l.hearAll job.waveform).hearing = none ∧
      ((l.hearAll job.waveform).lclk, (l.hearAll job.waveform).ldio) = (some true, some true) := by
  obtain ⟨f, hf⟩ := waveform_of_update hu
  rw [hf, hear_wSet l f hh hq]
  refine ⟨?_, hh, rfl⟩
  simpa [Listener.wellFramed, hh, updateHeard, dataBytes, Heard.wellFramed] using hw

theorem listen_append (a b : List PinWrite) : listen (a ++ b) = (listen a).hearAll b := hearAll_append {} a b

/-- R92, R112: an update cut short leaves a well framed trace. -/
theorem wellFramed_listen_take {before : List PinWrite} {job : Job} (n : Nat) (hu : job.isUpdate = true)
    (hw : (listen before).wellFramed = true) (hh : (listen before).hearing = none)
    (hq : quietLines ((listen before).lclk, (listen before).ldio)) :
    (listen (before ++ job.waveform.take n)).wellFramed = true := by
  obtain ⟨hwhole, -⟩ := hear_update hu hw hh hq
  rw [← List.take_append_drop n job.waveform, hearAll_append] at hwhole
  rw [listen_append]
  exact wellFramed_of_hearAll hwhole

/-- What the invariant says of an idle block. -/
theorem framedInv_idle {s : State} (hq : s.seq = .idle) :
    s.FramedInv ↔ s.ExternalInv ∧ (listen s.trace).wellFramed = true ∧
      (s.fault = none →
        (listen s.trace).hearing = none ∧ ((listen s.trace).lclk, (listen s.trace).ldio) = (s.clk, s.dio)) := by
  simp only [State.FramedInv, hq]

/-- What it says of an unfaulted block that runs an operation. -/
theorem framedInv_running {s : State} {job : Job} {k : Nat} {w : Work} (hq : s.seq = .running job k w)
    (hf : s.fault = none) :
    s.FramedInv ↔ s.ExternalInv ∧ (listen s.trace).wellFramed = true ∧
      ∃ before, s.trace = before ++ job.waveform.take k ∧ (listen before).wellFramed = true ∧
        (listen before).hearing = none ∧ quietLines ((listen before).lclk, (listen before).ldio) := by
  simp only [State.FramedInv, hq, hf, true_imp_iff]

/-- Of a faulted block it says no more than that the trace, cut short, is well framed. -/
theorem framedInv_of_faulted {s : State} (h : s.ExternalInv) (hf : s.fault ≠ none)
    (hw : (listen s.trace).wellFramed = true) : s.FramedInv :=
  ⟨h, hw, fun hnone => absurd hnone hf⟩

/-- What leaves the lines, the fault record, the trace and the sequencer as they are keeps it. -/
theorem framedInv_of_same {s t : State} (h : s.FramedInv) (ht : t.ExternalInv) (hclk : t.clk = s.clk)
    (hdio : t.dio = s.dio) (hf : t.fault = s.fault) (htrace : t.trace = s.trace) (hq : t.seq = s.seq) :
    t.FramedInv := by
  obtain ⟨-, hframed⟩ := h
  refine ⟨ht, ?_⟩
  rw [hclk, hdio, hf, htrace, hq]
  exact hframed

/-- R105, R170, R171: an update accepted by an idle block has added nothing to the trace. -/
theorem framedInv_start {s : State} {job : Job} (h : s.FramedInv) (hf : s.fault = none) (hq : s.seq = .idle)
    (hu : job.isUpdate = true) : (s.start job).FramedInv := by
  obtain ⟨hs, hw, hidle⟩ := (framedInv_idle hq).1 h
  obtain ⟨hh, hlines⟩ := hidle hf
  obtain ⟨-, hbus⟩ := (externalInv_idle hq).1 hs
  obtain ⟨-, hquiet⟩ := hbus hf
  exact (framedInv_running (State.start_seq s job) hf).2
    ⟨externalInv_start hs hf hq hu, hw, s.trace, by simp, hw, hh, by rwa [hlines]⟩

/-- R100, R110: a write that succeeds adds the waveform's next entry, or its last, after which the listener stands outside a
transaction with the block's lines. -/
theorem framedInv_of_performed {s t : State} {job : Job} {k : Nat} {w : Work} {m : Micro} {p : Pin} {v : Bit}
    (h : s.FramedInv) (ht : t.ExternalInv) (hf : s.fault = none) (hq : s.seq = .running job k w)
    (hw : job.waveform[k]? = some (p, v)) (hp : Performed s t job k m p v) : t.FramedInv := by
  obtain ⟨hs, -, before, htrace, hwf, hh, hquiet⟩ := (framedInv_running hq hf).1 h
  obtain ⟨-, -, hu, hk, -, lines, -, hlines⟩ := (externalInv_running hq hf).1 hs
  have hnext : job.waveform.take (k + 1) = job.waveform.take k ++ [(p, v)] := by
    rw [List.take_add_one, hw]
    rfl
  have htrace' : t.trace = before ++ job.waveform.take (k + 1) := by rw [hp.trace, htrace, hnext, List.append_assoc]
  have hwf' : (listen t.trace).wellFramed = true := htrace' ▸ wellFramed_listen_take (k + 1) hu hwf hh hquiet
  have hlen : job.program.length = 213 := (program_length job).trans (update_length hu)
  by_cases hlast : k + 1 = 213
  · obtain ⟨hidle, -⟩ := hp.ends (hlast.trans hlen.symm)
    have hwhole : job.waveform.take (k + 1) = job.waveform :=
      List.take_of_length_le (by rw [update_length hu, hlast])
    obtain ⟨-, hh', hlines'⟩ := hear_update hu hwf hh hquiet
    refine (framedInv_idle hidle).2 ⟨ht, hwf', fun _ => ?_⟩
    rw [htrace', hwhole, listen_append]
    refine ⟨hh', hlines'.trans ?_⟩
    rw [hp.lines, hlines, ← driveLines_append, ← hnext, hwhole, driveLines_update hu]
  · obtain ⟨⟨w', hrun⟩, -⟩ := hp.goesOn (by omega)
    exact (framedInv_running hrun hp.fault).2 ⟨ht, hwf', before, htrace', hwf, hh, hquiet⟩

/-- A micro-step keeps the invariant, whatever the platform answers. -/
theorem microStep_framedInv {s : State} (h : s.FramedInv) (hf : s.fault = none) : (microStep s).FramedInv := by
  have ⟨hs, hwf, _⟩ := h
  have ⟨hc, _, _⟩ := hs
  have ht := microStep_externalInv hs hf
  obtain ⟨-, e⟩ | ⟨job, k, w, hq, hnone, -⟩ | ⟨job, k, w, _, hq, -, ha, -⟩ | ⟨_, _, _, _, -, -, -, e⟩ :=
    microStep_cases s
  · rwa [e]
  · have hk : job.program.length ≤ k := by simpa using hnone
    have hlt : k < job.program.length := (program_length job).symm ▸ position_lt_of_coherent hc hq
    omega
  · have hw := List.getElem?_eq_getElem (position_lt_of_coherent hc hq)
    obtain ⟨m, -, hp⟩ := microStep_ok hc hf hq hw ha
    exact framedInv_of_performed h ht hf hq hw hp
  · rw [e] at ht ⊢
    exact framedInv_of_faulted ht (by simp) (by simpa using hwf)

/-- An external instruction that answers a next state keeps the invariant. -/
theorem exec_framedInv {i : Instr} {s t : State} (hs : s.FramedInv) (hi : i.opClass = .external)
    (h : exec i s = .next t) : t.FramedInv := by
  have ⟨hext, hwf, _⟩ := hs
  have ht := exec_externalInv hext hi h
  obtain ⟨hf, ⟨_, _, _, -, rfl⟩ | ⟨hq, ⟨_, rfl⟩ | ⟨_, rfl⟩ | ⟨job, n, hl, -, rfl⟩ | ⟨job, hv, -, rfl⟩ | ⟨_, -, rfl⟩⟩⟩ :=
    exec_next h
  · exact framedInv_of_same hs ht rfl rfl rfl rfl rfl
  · exact framedInv_of_same hs ht rfl rfl rfl rfl rfl
  · exact framedInv_of_faulted ht (by simp) hwf
  · exact microStep_framedInv (framedInv_start hs hf hq (isUpdate_of_launches hi hl)) hf
  · exact framedInv_start hs hf hq (isUpdate_of_validates hv)
  · exact framedInv_of_same hs ht rfl rfl rfl rfl rfl

/-- A step of a block used through the external interface keeps the invariant. -/
theorem step_framedInv {s t : State} (hs : s.FramedInv) (h : step s = .next t) : t.FramedInv := by
  obtain ⟨hf, ⟨-, rfl⟩ | ⟨c, rest, hcalls, -, he⟩⟩ := step_next h
  · exact microStep_framedInv hs hf
  · have ⟨hext, _⟩ := hs
    have hc : c.external = true := by
      obtain ⟨-, hcallers, -⟩ := hext
      exact hcallers c (by simp [hcalls])
    have hext' : (s.setCalls rest).ExternalInv :=
      externalInv_of_same hext rfl rfl rfl rfl rfl (by simp [hcalls])
    exact exec_framedInv (framedInv_of_same hs hext' rfl rfl rfl rfl rfl) (of_decide_eq_true hc) he

end Sys2Proof.Machine

open Sys2Proof Sys2Proof.Machine

/-- Settles O55: the external request that is due, or the micro-step of the running update, keeps the trace well framed. -/
theorem stepKeepsTheTraceWellFramed : Obligations.StepKeepsTheTraceWellFramed :=
  fun _ _ hs h => step_framedInv hs h

end

section
/-! PROOFS. The request that is due and what it starts: the call a step takes (60_exceptions.md R209, R221), the wire rows as
SEND_BYTE of their byte (30_encoding.md R70, R88), and acceptance with write 0 (40_bus_driver.md R100, R103). -/

namespace Sys2Proof.Machine

/-! ### Acceptance and write 0 -/

/-- R100, R101, R114: an operation is accepted and its first entry performed, or that write fails. -/
theorem launch_eq {s : State} {job : Job} {m : Micro} {w : Work} (hm : job.program[0]? = some m)
    (hlen : 1 < job.program.length) (hafter : m.after = .nothing) (hw : m.loaded s.staleWork = w) :
    s.launch job =
      if (s.start job).nextAnswer then
        ((s.start job).answered.drive (m.pin, m.levelOf w)).setSeq (.running job 1 w)
      else
        ((s.start job).answered.setLine m.pin none).raiseFault (.pinWriteFailure m.pin (m.levelOf w) job.op 0) := by
  subst hw
  rw [State.launch, microStep_running (State.start_seq s job) hm]
  split_ifs with ha
  · rw [perform_ok ha, hafter]
    exact if_pos hlen
  · exact perform_fails (Bool.eq_false_of_not_eq_true ha)

/-- R103: SEND_BYTE's write 0 is C0, with SR and BC loaded. -/
theorem launch_sendByte (s : State) (b : Byte) :
    s.launch (.sendByte b) =
      if (s.start (.sendByte b)).nextAnswer then
        { (s.start (.sendByte b)).answered with
          clk := some false, trace := s.trace ++ [(.CLK, false)], seq := .running (.sendByte b) 1 ⟨b, 0⟩ }
      else
        { (s.start (.sendByte b)).answered with
          clk := none, fault := some (.pinWriteFailure .CLK false .sendByte 0), seq := .idle,
          replies := s.replies ++ [.faulted (.pinWriteFailure .CLK false .sendByte 0)] } := by
  have htrace : (s.start (.sendByte b)).answered.trace = s.trace := State.answered_trace _
  have hreplies : (s.start (.sendByte b)).answered.replies = s.replies := State.answered_replies _
  have hlen : (Job.sendByte b).program.length = 27 := program_length _
  rw [launch_eq (m := { pin := .CLK, level := .const false, load := some b }) rfl (by omega) rfl rfl, ← htrace,
    ← hreplies]
  rfl

/-- R103: on a ready block with a transaction open SEND_BYTE is launched. -/
theorem exec_sendByte_ready {s : State} (b : Byte) (hr : s.Ready) (htxn : s.txn = true) :
    exec (.sendByte b) s = .next (s.launch (.sendByte b)) := by
  obtain ⟨hf, hq⟩ := hr
  exact (accept_ready hf hq).trans (requireTxn_held htxn)

/-! ### The wire rows -/

/-- R103, log entry 12: a wire row is SEND_BYTE of its byte in its place, and wherever a transaction or the sequencer already
decides the outcome. -/
theorem exec_wireByte_eq_sendByte {i : Instr} {b : Byte} {s : State} (hi : wireByte i = some b)
    (h : StandsInPlace i s.openBytes ∨ s.txn = false ∨ s.seq ≠ .idle) : exec i s = exec (.sendByte b) s := by
  obtain ⟨inPlace, hexec, hplace⟩ := exec_wireByte hi s
  rw [hexec]
  obtain hin | htxn | hq := h
  · rw [hplace.2 hin]
    rfl
  · have hbroken : s.txn ≠ true := by simp [htxn]
    exact congrArg (accept _ s) ((requireTxn_broken hbroken).trans (requireTxn_broken hbroken).symm)
  · cases hs : s.seq with
    | idle => exact absurd hs hq
    | running => simp only [sendWireByte, exec, execSendByte, accept, hs]

theorem ctrlByte_eq_append (x : BitVec 3) : ctrlByte x = 0b10001#5 ++ x := by
  revert x
  decide

theorem segmentByte_eq_append (bit7 : Bool) (x : BitVec 7) : segmentByte bit7 x = BitVec.ofBool bit7 ++ x := by
  apply BitVec.eq_of_toNat_eq
  rw [segmentByte_toNat, BitVec.toNat_append, ← Nat.shiftLeft_add_eq_or_of_lt x.isLt, Nat.shiftLeft_eq,
    BitVec.toNat_ofBool, Nat.mul_comm]

/-- R82 to R85: the byte a wire row sends is its code word's. -/
theorem wireByte_of_encode {i : Instr} {b : Byte} (h : encode i = .wireCmd b ∨ encode i = .wireData b) :
    wireByte i = some b := by
  cases i with
  | cmdModeAutoinc | cmdAddr0 =>
    obtain ⟨⟨⟩⟩ | ⟨⟨⟩⟩ := h
    rfl
  | cmdDisplayOn x =>
    obtain ⟨⟨⟩⟩ | ⟨⟨⟩⟩ := h
    exact congrArg some (ctrlByte_eq_append x)
  | dataSegment bit7 x =>
    obtain ⟨⟨⟩⟩ | ⟨⟨⟩⟩ := h
    exact congrArg some (segmentByte_eq_append bit7 x)
  | _ => obtain ⟨⟨⟩⟩ | ⟨⟨⟩⟩ := h

/-! ### The request issued for a table number -/

/-- A request that arrives now is the next one executed. -/
theorem step_issue {s : State} (r : Request) (hf : s.fault = none) : step (s.issue r) = exec (decodeRequest r) s := by
  have hdue : Call.due ⟨some 0, r⟩ s.seq = true := by cases s.seq <;> simp [Call.due]
  exact step_due (s := s.issue r) hf (State.issue_calls s r) hdue rfl

theorem decodeTableWord_some {nbits w : Nat} {i : Instr} (h : decodeTableWord nbits w = some i) :
    ∃ cw, tableWord w = some cw ∧ decode cw = .ok i := by
  unfold decodeTableWord at h
  split at h
  · cases h
  · next cw hcw =>
    split at h
    · next hd =>
      cases h
      exact ⟨cw, hcw, hd⟩
    · cases h

theorem step_withFetchWord {s : State} {w : Nat} {cw : CodeWord} (nbits : Nat) (hf : s.fault = none)
    (hcw : tableWord w = some cw) : step (s.withFetchWord nbits w) = exec (decodeRequest cw.request) s := by
  simp only [State.withFetchWord, hcw]
  exact step_issue cw.request hf

/-- Log entry 13: a number from 16 on is read as a wire byte. -/
theorem tableWord_wire {w : Nat} {cw : CodeWord} (hw : 16 ≤ w) (h : tableWord w = some cw) :
    cw = .wireCmd (BitVec.ofNat 8 w) ∨ cw = .wireData (BitVec.ofNat 8 w) := by
  unfold tableWord at h
  split at h
  · omega
  · split at h
    · cases h
    · split at h <;> cases h
      · exact .inl rfl
      · exact .inr rfl

end Sys2Proof.Machine

open Sys2Proof Sys2Proof.Machine

/-- Settles O5: the first call is due, so it is the one taken. -/
theorem stepExecutesTheDueRequest : Obligations.StepExecutesTheDueRequest :=
  fun _ _ _ _ hf hc hd hi => step_due hf hc hd hi

/-- Settles O7: a selector's request is the word itself; a wire byte's is SEND_BYTE, and the row read is that byte's. -/
theorem fetchedWordRunsNext : Obligations.FetchedWordRunsNext := by
  intro s nbits w i hf h
  obtain ⟨cw, hcw, hd⟩ := decodeTableWord_some h
  have hstep := step_withFetchWord nbits hf hcw
  have hwire (hw : 16 ≤ w) : step (s.withFetchWord nbits w) = exec (.sendByte (BitVec.ofNat 8 w)) s ∧
      wireByte i = some (BitVec.ofNat 8 w) := by
    obtain ⟨-, hencode⟩ := encode_of_decode hd
    obtain rfl | rfl := tableWord_wire hw hcw
    · exact ⟨hstep, wireByte_of_encode (.inl hencode)⟩
    · exact ⟨hstep, wireByte_of_encode (.inr hencode)⟩
  refine ⟨fun hw => ?_, fun hw => (hwire hw).1, fun hw hplace => ?_⟩
  · obtain rfl : .req { op := BitVec.ofNat 4 w } = cw := by simpa [tableWord, hw] using hcw
    cases hd
    exact hstep
  · obtain ⟨hsend, hi⟩ := hwire hw
    exact hsend.trans (exec_wireByte_eq_sendByte hi hplace).symm

/-- Settles O9: a wire row in its place is SEND_BYTE of its byte, which is launched. -/
theorem sendByteLoadsAndDrivesClockLowFirst : Obligations.SendByteLoadsAndDrivesClockLowFirst := by
  intro s i b hr htxn hi
  have hsend : exec i s = exec (.sendByte b) s := by
    obtain rfl | ⟨hplace, hrow⟩ := hi
    · rfl
    · exact exec_wireByte_eq_sendByte (wireByte_of_row hrow) (.inl hplace)
  rw [hsend, exec_sendByte_ready b hr htxn, launch_sendByte]

end

section
/-! PROOFS. A step of the running operation (40_bus_driver.md R100, R101): no call is due, so it is a micro-step, and the
platform's answer decides between the next write of the waveform and the fault. -/

namespace Sys2Proof.Machine

/-- R100: a completed write sets its own line and no other. -/
theorem Performed.line {s t : State} {job : Job} {k : Nat} {m : Micro} {p : Pin} {v : Bit}
    (h : Performed s t job k m p v) (q : Pin) : t.line q = if q = p then some v else s.line q := by
  have hl := h.lines
  cases p <;> obtain ⟨hclk, hdio⟩ := Prod.mk.inj hl <;> cases q
  · exact hclk
  · exact hdio
  · exact hclk
  · exact hdio

/-- R101: what a micro-step does when write (p, v), entry k of the waveform, fails. -/
theorem microStep_fails {s : State} {job : Job} {k : Nat} {w : Work} {p : Pin} {v : Bit} (hc : s.Coherent)
    (hq : s.seq = .running job k w) (hw : job.waveform[k]? = some (p, v)) (ha : s.nextAnswer = false) :
    microStep s = (s.answered.setLine p none).raiseFault (.pinWriteFailure p v job.op k) := by
  obtain ⟨m, hm, rfl, rfl, -⟩ := micro_of_waveform hc hq hw
  exact (microStep_running hq hm).trans (perform_fails ha)

/-- R208: the faulted block has no step. -/
theorem step_faulted {s : State} {c : FaultCause} (h : s.fault = some c) : step s = .fault (.blockFaulted c) := by
  simp [step, h]

end Sys2Proof.Machine

open Sys2Proof Sys2Proof.Machine

/-- Settles O6: a first call that is not due is not taken, and an idle block has no micro-step to perform. -/
theorem stepWithoutDueRequestIsAMicroStep : Obligations.StepWithoutDueRequestIsAMicroStep := by
  intro s hf hwaits
  have hcall : s.takeCall = none := by
    refine takeCall_waits fun c hc => ?_
    obtain ⟨rest, hcalls⟩ := List.head?_eq_some_iff.1 hc
    exact hwaits c rest hcalls
  have hstep := step_micro hf hcall
  exact ⟨hstep, fun hq => hstep.trans (congrArg _ (microStep_idle hq))⟩

/-- Settles O24: the fields of `Performed`, with the program as long as the waveform. -/
theorem microStepPerformsTheNextWrite : Obligations.MicroStepPerformsTheNextWrite := by
  intro s job k w p v hc hf hq hcall hw ha
  obtain ⟨m, -, hp⟩ := microStep_ok hc hf hq hw ha
  exact ⟨microStep s, step_micro hf hcall, (hp.line p).trans (if_pos rfl), fun q hne => (hp.line q).trans (if_neg hne),
    hp.trace, hp.fault, hp.refused, hp.calls, program_length job ▸ hp.goesOn, program_length job ▸ hp.ends⟩

/-- Settles O25: the line is lost, the fault is entered, and R208 leaves no step. -/
theorem failedPinWriteFaultsTheBlock : Obligations.FailedPinWriteFaultsTheBlock := by
  intro s job k w p v hc hf hq hcall hw ha
  refine ⟨microStep s, step_micro hf hcall, ?_⟩
  rw [microStep_fails hc hq hw ha]
  have hother (q) (hne : q ≠ p) : (s.answered.setLine p none).line q = s.line q :=
    (State.setLine_line_ne _ _ hne).trans (State.answered_line s q)
  exact ⟨State.setLine_line _ _ _, hother, by simp, by simp, rfl, rfl, by simp, by simp, step_faulted rfl⟩

/-- Settles O32: the platform's answer to the next write is all that a step depends on. -/
theorem runningOperationIsNotInterrupted : Obligations.RunningOperationIsNotInterrupted := by
  intro s job k w hc hf hq hcalls
  have hk := position_lt_of_coherent hc hq
  have hw := List.getElem?_eq_getElem hk
  refine ⟨microStep s, step_micro hf (takeCall_none_of_dutiful hcalls hq), ?_⟩
  cases ha : s.nextAnswer with
  | true =>
    obtain ⟨m, -, hp⟩ := microStep_ok hc hf hq hw ha
    refine ⟨hp.calls, ?_⟩
    obtain hlt | hlast : k + 1 < job.waveform.length ∨ k + 1 = job.waveform.length := by omega
    · obtain ⟨hrun, hreplies⟩ := hp.goesOn (program_length job ▸ hlt)
      exact .inl ⟨hlt, hp.fault, hreplies, hrun⟩
    · obtain ⟨hidle, hreplies⟩ := hp.ends (program_length job ▸ hlast)
      exact .inr (.inl ⟨hlast, hp.fault, hreplies, hidle⟩)
  | false =>
    rw [microStep_fails hc hq hw ha]
    exact ⟨by simp, .inr (.inr ⟨_, _, hw, rfl, by simp, rfl⟩)⟩

end

section
/-! PROOFS. The bus operations as requests (40_bus_driver.md R102 to R105): their acceptance with write 0, and the block they
leave once all their writes have succeeded. -/

namespace Sys2Proof.Machine

/-- R102 to R105: instruction i is a bus operation, run as `job`, that needs `st.txn = needed`. -/
inductive IsBusOp : Instr → Bool → Job → Prop where
  | beginTxn : IsBusOp .beginTxn false .beginTxn
  | sendByte (b : Byte) : IsBusOp (.sendByte b) true (.sendByte b)
  | endTxn : IsBusOp .endTxn true .endTxn
  | setDisplay (slots : Slots) (colon : Bool) (bright3 : BitVec 3) :
      IsBusOp (.setDisplay slots colon bright3) false (.setDisplay ⟨slots, colon, bright3⟩)

/-- R206, R209: a ready block launches a bus operation, or faults for the wrong `st.txn`. -/
theorem exec_busOp {i : Instr} {needed : Bool} {job : Job} {s : State} (hi : IsBusOp i needed job) (hr : s.Ready) :
    exec i s = requireTxn job.op needed s (s.launch job) := by
  obtain ⟨hf, hq⟩ := hr
  cases hi <;> exact accept_ready hf hq

/-- R114: where its precondition holds it is launched. -/
theorem exec_busOp_launch {i : Instr} {needed : Bool} {job : Job} {s : State} (hi : IsBusOp i needed job) (hr : s.Ready)
    (htxn : s.txn = needed) : exec i s = .next (s.launch job) :=
  (exec_busOp hi hr).trans (requireTxn_held htxn)

/-- R100, R101: write 0 of an operation whose first entry drives a constant v on p. -/
theorem launch_const {job : Job} {p : Pin} {v : Bit} (s : State)
    (hm : job.program[0]? = some { pin := p, level := .const v }) (hlen : 1 < job.program.length) :
    s.launch job =
      if (s.start job).nextAnswer then
        { (s.start job).answered.setLine p (some v) with
          trace := s.trace ++ [(p, v)], seq := .running job 1 s.staleWork }
      else
        { (s.start job).answered.setLine p none with
          fault := some (.pinWriteFailure p v job.op 0), seq := .idle,
          replies := s.replies ++ [.faulted (.pinWriteFailure p v job.op 0)] } := by
  have htrace (l) : ((s.start job).answered.setLine p l).trace = s.trace := by simp
  have hreplies (l) : ((s.start job).answered.setLine p l).replies = s.replies := by simp
  rw [launch_eq hm hlen rfl rfl, ← htrace (some v), ← hreplies none]
  rfl

/-! ### The end of an operation no fault ended -/

/-- Where the writes of `job` leave a ready block that received it: one answer for each write, a free value for each write
past the answers, another for the acceptance and one for the end of each byte (log entries 3, 4). -/
def State.operated (s : State) (job : Job) (rest : List Call) : State :=
  { s with
    clk := (driveLines (s.clk, s.dio) job.waveform).1
    dio := (driveLines (s.clk, s.dio) job.waveform).2
    txn := job.afters.foldl txnAfter s.txn
    trace := s.trace ++ job.waveform
    replies := s.replies ++ [.ok .none]
    calls := rest
    answers := s.answers.drop job.waveform.length
    draws := s.draws + 1 + (job.waveform.length - s.answers.length) + job.afters.count .sendDone }

/-- A bus operation cut after n + 1 steps with no fault recorded met its precondition, and its writes so far succeeded. -/
theorem driven_of_receives {s t : State} {i : Instr} {needed : Bool} {job : Job} {rest : List Call} {n : Nat}
    (hi : IsBusOp i needed job) (hr : s.Receives i rest) (hn : n + 1 ≤ job.waveform.length)
    (h : Host.Core.run Sys2Proof.core (n + 1) s = .next t) (ht : t.fault = none) :
    s.txn = needed ∧ Driven ((s.setCalls rest).start job) t job 0 (n + 1) := by
  have ⟨⟨hf, hq⟩, hdutiful, _⟩ := hr
  by_cases htxn : s.txn = needed
  case neg =>
    have hfaults := (exec_busOp (s := s.setCalls rest) hi ⟨hf, hq⟩).trans (requireTxn_broken htxn)
    rw [run_succ n ((step_of_receives hr).trans hfaults)] at h
    obtain ⟨-, rfl⟩ := run_faulted n (State.raiseFault_fault _ _) h
    cases ht
  rw [run_of_launch n hr (exec_busOp_launch (s := s.setCalls rest) hi ⟨hf, hq⟩ htxn)] at h
  rw [← program_length] at hn
  exact ⟨htxn, run_driven (coherent_start _ job hf) hf (State.start_seq _ _) hdutiful (by omega) h ht⟩

/-- R109: the end of a bus operation that completed with no fault. -/
theorem operation_end {s t : State} {i : Instr} {needed : Bool} {job : Job} {rest : List Call} {n : Nat}
    (hi : IsBusOp i needed job) (hr : s.Receives i rest) (hn : job.waveform.length = n + 1)
    (h : Host.Core.run Sys2Proof.core (n + 1) s = .next t) (ht : t.fault = none) :
    s.txn = needed ∧ t = s.operated job rest := by
  obtain ⟨htxn, hd⟩ := driven_of_receives hi hr hn.ge h ht
  obtain ⟨⟨hf, hq⟩, -⟩ := hr
  have hprog := program_length job
  have hwave : (job.waveform.drop 0).take (n + 1) = job.waveform := List.take_of_length_le hn.le
  have hafters : (job.afters.drop 0).take (n + 1) = job.afters :=
    List.take_of_length_le (by rw [List.drop_zero, Job.afters, List.length_map, hprog, hn])
  obtain ⟨hidle, hreplies⟩ := hd.ends (by omega)
  have hlines := hd.lines
  rw [hwave] at hlines
  refine ⟨htxn, ?_⟩
  apply State.eq_of_fields
  case clk => exact congrArg Prod.fst hlines
  case dio => exact congrArg Prod.snd hlines
  case txn => rw [hd.txn, hafters]; rfl
  case fault => exact ht.trans hf.symm
  case trace => rw [hd.trace, hwave]; rfl
  case seq => exact hidle.trans hq.symm
  case refused => exact hd.refused
  case replies => exact hreplies
  case calls => exact hd.calls
  case answers => rw [hd.answers, ← hn]; rfl
  case draws => rw [hd.draws, hafters, ← hn]; rfl

/-! ### Writes that all succeed -/

/-- The last step of a run that succeeds. -/
theorem run_succ_of_last {s u t : State} {n : Nat} (h : Host.Core.run Sys2Proof.core n s = .next u)
    (hs : step u = .next t) : Host.Core.run Sys2Proof.core (n + 1) s = .next t := by
  induction n generalizing s with
  | zero =>
    cases h
    exact run_succ 0 hs
  | succ n ih =>
    obtain ⟨_, hfirst, hrest⟩ := run_succ_first h
    exact (run_succ (n + 1) hfirst).trans (ih hrest)

/-- n steps of a running operation whose next n writes succeed record no fault. -/
theorem run_of_successes {s : State} {job : Job} {k n : Nat} {w : Work} {later : List Bool} (hc : s.Coherent)
    (hf : s.fault = none) (hq : s.seq = .running job k w) (hcalls : dutiful s.calls = true)
    (hn : k + n ≤ job.program.length) (ha : s.answers = List.replicate n true ++ later) :
    ∃ t, Host.Core.run Sys2Proof.core n s = .next t ∧ t.fault = none := by
  induction n generalizing later with
  | zero => exact ⟨s, rfl, hf⟩
  | succ n ih =>
    rw [List.replicate_succ', List.append_assoc] at ha
    obtain ⟨u, hu, huf⟩ := ih (by omega) ha
    have hd := run_driven hc hf hq hcalls (by omega) hu huf
    obtain ⟨⟨w', hrun⟩, -⟩ := hd.goesOn (by omega)
    have hanswers : u.answers = true :: later := by simp [hd.answers, ha]
    have hw := List.getElem?_eq_getElem (position_lt_of_coherent hd.coherent hrun)
    obtain ⟨m, -, hp⟩ := microStep_ok hd.coherent huf hrun hw (State.nextAnswer_of_cons u hanswers)
    have hstep := step_micro huf (takeCall_none_of_dutiful (hd.calls ▸ hcalls) hrun)
    exact ⟨_, run_succ_of_last hu hstep, hp.fault⟩

/-- A bus operation whose precondition holds and whose writes all succeed completes with no fault. -/
theorem operation_completes {s : State} {i : Instr} {needed : Bool} {job : Job} {rest : List Call} {n : Nat}
    {later : List Bool} (hi : IsBusOp i needed job) (hr : s.Receives i rest) (htxn : s.txn = needed)
    (hn : job.waveform.length = n + 1) (ha : s.answers = List.replicate (n + 1) true ++ later) :
    ∃ t, Host.Core.run Sys2Proof.core (n + 1) s = .next t ∧ t.fault = none := by
  have ⟨⟨hf, hq⟩, hdutiful, _⟩ := hr
  have hlaunch := exec_busOp_launch (s := s.setCalls rest) hi ⟨hf, hq⟩ htxn
  have hlen : 0 + (n + 1) ≤ job.program.length := by rw [program_length]; omega
  rw [run_of_launch n hr hlaunch]
  exact run_of_successes (coherent_start (s.setCalls rest) job hf) hf (State.start_seq _ _) hdutiful hlen ha

/-- One answer is used up by each write that has one, and what comes later is left. -/
theorem answers_used {answers later : List Bool} {n : Nat} (h : answers = List.replicate n true ++ later) :
    answers.drop n = later ∧ n - answers.length = 0 := by
  rw [h, List.drop_left' List.length_replicate, List.length_append, List.length_replicate]
  exact ⟨rfl, by omega⟩

/-- R102 to R105: a bus operation whose writes all succeed, from acceptance to its end. -/
theorem run_operation {s : State} {i : Instr} {needed : Bool} {job : Job} {rest : List Call} {n : Nat} {later : List Bool}
    (hi : IsBusOp i needed job) (hr : s.Receives i rest) (htxn : s.txn = needed) (hn : job.waveform.length = n + 1)
    (ha : s.answers = List.replicate (n + 1) true ++ later) :
    Host.Core.run Sys2Proof.core (n + 1) s = .next
      { s.operated job rest with answers := later, draws := s.draws + 1 + job.afters.count .sendDone } := by
  obtain ⟨t, hrun, ht⟩ := operation_completes hi hr htxn hn ha
  obtain ⟨-, rfl⟩ := operation_end hi hr hn hrun ht
  obtain ⟨hanswers, hused⟩ := answers_used ha
  rw [hrun, State.operated, hn, hanswers, hused]

/-! ### An update's flag and its bytes -/

/-- R25, R105: the flag after the first n writes of an update. -/
theorem updateAfters_foldl_take {n : Nat} (hn : n ≤ 213) : (updateAfters.take n).foldl txnAfter false = updateTxn n := by
  induction n with
  | zero => rfl
  | succ n ih =>
    have hlt : n < (Job.setDisplay default).program.length := by
      rw [program_length, update_length rfl]
      omega
    have hm := List.getElem?_eq_getElem hlt
    rw [List.take_add_one, updateAfters, Job.afters_getElem? hm, List.foldl_append, ← updateAfters, ih (by omega)]
    exact updateTxn_succ rfl hm

/-- R84: three bits need no mask. -/
theorem ctrlByte_eq_or (x : BitVec 3) : ctrlByte x = 0x88#8 ||| x.zeroExtend 8 := by
  revert x
  decide

/-- R105 to R107: an update's waveform written out. -/
theorem wSet_eq (slots : Slots) (colon : Bool) (bright3 : BitVec 3) :
    wSet ⟨slots, colon, bright3⟩ =
      wBegin ++ wSend 0x40#8 ++ wEnd ++
        wBegin ++ wSend 0xC0#8 ++ wSend slots.s0 ++ wSend (slots.s1 ||| if colon then 0x80#8 else 0x00#8) ++
          wSend slots.s2 ++ wSend slots.s3 ++ wEnd ++
        wBegin ++ wSend (0x88#8 ||| bright3.zeroExtend 8) ++ wEnd := by
  simp only [wSet, wTxn, dataBytes, modeByte, addrByte, colonByte, ctrlByte_eq_or, List.flatMap_cons, List.flatMap_nil,
    List.append_nil, List.append_assoc]

end Sys2Proof.Machine

open Sys2Proof Sys2Proof.Machine

/-- Settles O8: BEGIN_TXN is launched, and its first entry is D1. -/
theorem beginTxnDrivesDataHighFirst : Obligations.BeginTxnDrivesDataHighFirst :=
  fun s hr htxn => (exec_busOp_launch .beginTxn hr htxn).trans
    (congrArg _ (launch_const (p := .DIO) (v := true) s rfl (by decide)))

/-- Settles O12: END_TXN is launched, and its first entry is C0. -/
theorem endTxnDrivesClockLowFirst : Obligations.EndTxnDrivesClockLowFirst :=
  fun s hr htxn => (exec_busOp_launch .endTxn hr htxn).trans
    (congrArg _ (launch_const (p := .CLK) (v := false) s rfl (by decide)))

/-- Settles O13: SET_DISPLAY is launched, and its first entry is BEGIN_TXN's D1. -/
theorem setDisplayDrivesDataHighFirst : Obligations.SetDisplayDrivesDataHighFirst := by
  intro s slots colon bright3 hr htxn
  have hlen : (Job.setDisplay ⟨slots, colon, bright3⟩).program.length = 213 :=
    (program_length _).trans (update_length rfl)
  exact (exec_busOp_launch (.setDisplay slots colon bright3) hr htxn).trans
    (congrArg _ (launch_const (p := .DIO) (v := true) s rfl (by omega)))

/-- Settles O15: the four writes are WBEGIN's, and the last one opens the transaction. -/
theorem beginTxnDrivesItsWaveform : Obligations.BeginTxnDrivesItsWaveform :=
  fun _ _ _ hr htxn ha => run_operation .beginTxn hr htxn rfl ha

/-- Settles O16: the 27 writes are WSEND's; one free value is used at acceptance and one at the end of the byte. -/
theorem sendByteDrivesItsWaveform : Obligations.SendByteDrivesItsWaveform :=
  fun _ b _ _ hr htxn ha => run_operation (.sendByte b) hr htxn rfl ha

/-- Settles O17: the four writes are WEND's, and the last one closes the transaction. -/
theorem endTxnDrivesItsWaveform : Obligations.EndTxnDrivesItsWaveform :=
  fun _ _ _ hr htxn ha => run_operation .endTxn hr htxn rfl ha

/-- Settles O18: the 213 writes are WSET's, its control byte without the mask. -/
theorem setDisplayDrivesThreeTransactions : Obligations.SetDisplayDrivesThreeTransactions := by
  intro s slots colon bright3 rest later hr htxn ha
  obtain ⟨t, hrun, ht⟩ := operation_completes (.setDisplay slots colon bright3) hr htxn (update_length rfl) ha
  obtain ⟨hanswers, hused⟩ := answers_used ha
  rw [hrun, setDisplay_end (f := ⟨slots, colon, bright3⟩) hr hrun ht, hanswers, hused, wSet_eq]

/-- Settles O20: with no fault every write succeeded, so the levels are those of the whole waveform. -/
theorem levelsAfterEachOperation : Obligations.LevelsAfterEachOperation := by
  intro s t i rest n c d x hr hi h ht
  have ⟨⟨_, hq⟩, _⟩ := hr
  obtain ⟨rfl, rfl, rfl, rfl, rfl⟩ | ⟨b, rfl, rfl, rfl, rfl, rfl⟩ | ⟨rfl, rfl, rfl, rfl, rfl⟩ |
    ⟨slots, colon, bright3, rfl, rfl, rfl, rfl, rfl⟩ := hi
  · obtain ⟨-, rfl⟩ := operation_end .beginTxn hr rfl h ht
    exact ⟨hq, rfl, rfl, rfl⟩
  · obtain ⟨htxn, rfl⟩ := operation_end (.sendByte b) hr rfl h ht
    exact ⟨hq, rfl, rfl, htxn⟩
  · obtain ⟨-, rfl⟩ := operation_end .endTxn hr rfl h ht
    exact ⟨hq, rfl, rfl, rfl⟩
  · obtain ⟨htxn, -⟩ := operation_end (.setDisplay slots colon bright3) hr (update_length rfl) h ht
    rw [setDisplay_end (f := ⟨slots, colon, bright3⟩) hr h ht]
    exact ⟨hq, rfl, rfl, htxn⟩

/-- Settles O21: a run cut after n steps has performed n writes, and the flag has followed them. -/
theorem haltedUpdateHasDrivenAPrefix : Obligations.HaltedUpdateHasDrivenAPrefix := by
  intro s t slots colon bright3 rest n hr htxn hn h ht
  cases n with
  | zero =>
    cases h
    exact ⟨by simp, rfl, htxn⟩
  | succ n =>
    have hlen : n + 1 ≤ (Job.setDisplay ⟨slots, colon, bright3⟩).waveform.length := by rwa [update_length rfl]
    obtain ⟨-, hd⟩ := driven_of_receives (.setDisplay slots colon bright3) hr hlen h ht
    refine ⟨hd.trace, hd.lines, ?_⟩
    rw [hd.txn, State.start_txn, State.setCalls_txn, htxn, List.drop_zero, afters_of_update rfl]
    exact updateAfters_foldl_take hn

end

section
/-! PROOFS. The write counts of R108 and the control byte of R107 (40_bus_driver.md). -/

namespace Sys2Proof.Machine

@[simp] theorem countPin_append (p : Pin) (a b : List PinWrite) : countPin p (a ++ b) = countPin p a + countPin p b :=
  List.countP_append

/-- R108: each byte is 9 writes on DIO and 18 on CLK; a transaction's start and stop are 2 each on either. -/
theorem countPin_wTxn (bs : List Byte) :
    countPin .DIO (wTxn bs) = 2 + 9 * bs.length + 2 ∧ countPin .CLK (wTxn bs) = 2 + 18 * bs.length + 2 := by
  have hbytes : countPin .DIO (bs.flatMap wSend) = 9 * bs.length ∧ countPin .CLK (bs.flatMap wSend) = 18 * bs.length := by
    induction bs with
    | nil => exact ⟨rfl, rfl⟩
    | cons b bs ih =>
      obtain ⟨hdio, hclk⟩ := ih
      have hdio_b : countPin .DIO (wSend b) = 9 := rfl
      have hclk_b : countPin .CLK (wSend b) = 18 := rfl
      simp only [List.flatMap_cons, countPin_append, List.length_cons]
      omega
  have hdio : countPin .DIO wBegin = 2 ∧ countPin .DIO wEnd = 2 := ⟨rfl, rfl⟩
  have hclk : countPin .CLK wBegin = 2 ∧ countPin .CLK wEnd = 2 := ⟨rfl, rfl⟩
  simp only [wTxn, countPin_append]
  omega

end Sys2Proof.Machine

open Sys2Proof Sys2Proof.Machine

/-- Settles O51: an update is transactions of 1, 5 and 1 bytes. -/
theorem writeCounts : Obligations.WriteCounts := by
  refine ⟨rfl, wSend_length, rfl, fun bs => ⟨wTxn_length bs, countPin_wTxn bs⟩, fun f => ?_⟩
  simp [wSet, wTxn_length, countPin_wTxn, dataBytes]

/-- Settles O49: the formula is the definition's, and each of its values is computed. -/
theorem controlByteIsDisplayOnAndBrightness : Obligations.ControlByteIsDisplayOnAndBrightness :=
  ⟨fun _ => rfl, by decide⟩

end

section
/-! PROOFS. The Segment Encoder (41_segment_encoder.md): the case fold (R141), the digits and the sign (R142 to R144), the
strings (R145) and the source's testable properties (R148). -/

namespace Sys2Proof.Machine

/-- R140: a ready block answers ENCODE_CHAR with the character's pattern. -/
theorem exec_encodeChar_ready {s : State} (hr : s.Ready) (c : Byte) :
    exec (.encodeChar c) s = .next { s with replies := s.replies ++ [.ok (.byte (charPattern Config.cfg c))] } :=
  have ⟨hf, hq⟩ := hr
  accept_ready hf hq

/-- R142: a ready block answers ENCODE_INT with what the slots computation gives. -/
theorem exec_encodeInt_ready {s : State} (hr : s.Ready) (v : Int) :
    exec (.encodeInt v) s = .next { s with replies := s.replies ++ [slotsReply (intSlots Config.cfg v)] } :=
  have ⟨hf, hq⟩ := hr
  accept_ready hf hq

/-- R145: a ready block answers ENCODE_STR with what the slots computation gives. -/
theorem exec_encodeStr_ready {s : State} (hr : s.Ready) (str : List Byte) :
    exec (.encodeStr str) s = .next { s with replies := s.replies ++ [slotsReply (strSlots Config.cfg str)] } :=
  have ⟨hf, hq⟩ := hr
  accept_ready hf hq

/-- R141, its range read as numbers. -/
theorem fold_eq (c : Byte) : fold c = if 0x41 ≤ c.toNat ∧ c.toNat ≤ 0x5A then c + 0x20#8 else c := by
  simp [fold, BitVec.le_def]

/-- R141, R51: the glyph table has the same pattern for both cases of a letter. -/
theorem glyphRead_fold {cfg : Config} (h : cfg.legal = true) (c : Byte) : glyphRead cfg (fold c) = glyphRead cfg c := by
  obtain ⟨-, hfolds, -⟩ := (legal_iff cfg).1 h
  rw [fold_eq]
  split
  · next hc =>
    obtain ⟨hlow, hhigh⟩ := hc
    exact ((glyphFolds_iff cfg).1 hfolds c hlow hhigh).symm
  · rfl

/-- R50, R143: a digit's glyph is the entry of its character code. -/
theorem digitGlyph_eq (cfg : Config) (d : Nat) : digitGlyph cfg d = cfg.glyph (BitVec.ofNat 8 (0x30 + d)) := by
  rw [digitGlyph, glyphRead, BitVec.ofNat_add]

/-- R142: a magnitude of 10000 or more is a range error. -/
theorem intSlots_out_of_range (cfg : Config) {v : Int} (h : 10000 ≤ v.natAbs) : intSlots cfg v = .error (.intRange v) :=
  if_pos h

/-- R142: a magnitude with the decimal digits a, b, c, d; the sign takes the place of a. -/
theorem intSlots_of_digits (cfg : Config) {v : Int} {a b c d : Nat} (ha : a < 10) (hb : b < 10) (hc : c < 10)
    (hd : d < 10) (hv : v.natAbs = 1000 * a + 100 * b + 10 * c + d) :
    intSlots cfg v = .ok
      { s0 := if v < 0 then cfg.minusGlyph else digitGlyph cfg a
        s1 := digitGlyph cfg b
        s2 := digitGlyph cfg c
        s3 := digitGlyph cfg d } := by
  have ⟨h0, h1, h2, h3⟩ : v.natAbs / 1000 % 10 = a ∧ v.natAbs / 100 % 10 = b ∧ v.natAbs / 10 % 10 = c ∧
      v.natAbs % 10 = d := by omega
  rw [intSlots, if_neg (by omega), h0, h1, h2, h3]

/-- R144: a negative value in range shows the sign and its last three digits, whatever its thousands digit. -/
theorem intSlots_negative (cfg : Config) {v : Int} {b c d : Nat} (hlow : -10000 < v) (hneg : v < 0) (hb : b < 10)
    (hc : c < 10) (hd : d < 10) (hv : v.natAbs % 1000 = 100 * b + 10 * c + d) :
    intSlots cfg v = .ok ⟨cfg.minusGlyph, digitGlyph cfg b, digitGlyph cfg c, digitGlyph cfg d⟩ := by
  rw [intSlots_of_digits cfg (a := v.natAbs / 1000) (by omega) hb hc hd (by omega), if_pos hneg]

/-- R144: the last three digits of a negative value fix its slots. -/
theorem intSlots_eq_of_mod (cfg : Config) {v w : Int} (hv : -10000 < v) (hv' : v < 0) (hw : -10000 < w)
    (hw' : w < 0) (h : v.natAbs % 1000 = w.natAbs % 1000) : intSlots cfg v = intSlots cfg w := by
  have digits (u : Int) : u.natAbs % 1000 =
      100 * (u.natAbs % 1000 / 100) + 10 * (u.natAbs % 1000 / 10 % 10) + u.natAbs % 1000 % 10 := by omega
  rw [intSlots_negative cfg hv hv' (by omega) (by omega) (by omega) (digits v),
    intSlots_negative cfg hw hw' (by omega) (by omega) (by omega) (digits w), h]

/-- R145: more than four characters are a range error. -/
theorem strSlots_out_of_range (cfg : Config) {str : List Byte} (h : 4 < str.length) :
    strSlots cfg str = .error (.strLength str.length) :=
  if_pos h

/-- R145: at most four characters are shown left to right, the slots they leave blank. -/
theorem strSlots_toList (cfg : Config) {str : List Byte} (h : str.length ≤ 4) :
    ∃ x, strSlots cfg str = .ok x ∧
      x.toList = str.map (charPattern cfg) ++ List.replicate (4 - str.length) 0x00#8 := by
  refine ⟨_, if_neg (by omega), ?_⟩
  match str, h with
  | [], _ | [_], _ | [_, _], _ | [_, _, _], _ | [_, _, _, _], _ => rfl

end Sys2Proof.Machine

open Sys2Proof Sys2Proof.Machine

/-- Settles O41: the block answers with the pattern of the folded character. -/
theorem encodeCharReturnsTheGlyph : Obligations.EncodeCharReturnsTheGlyph := by
  intro s c hr
  rw [exec_encodeChar_ready hr, charPattern, glyphRead, fold_eq]

/-- Settles O42: a magnitude is out of range or has four digits. -/
theorem encodeIntReturnsTheDigits : Obligations.EncodeIntReturnsTheDigits := by
  refine fun s v hr => ⟨fun h => ?_, fun a b c d ha hb hc hd hv => ?_⟩
  · rw [exec_encodeInt_ready hr, intSlots_out_of_range _ h, slotsReply]
  · simp only [exec_encodeInt_ready hr, intSlots_of_digits _ ha hb hc hd hv, slotsReply, digitGlyph_eq]

/-- Settles O43: a string is too long or fills the slots from the left. -/
theorem encodeStrReturnsTheCharacters : Obligations.EncodeStrReturnsTheCharacters := by
  refine fun s str hr => ⟨fun h => ?_, fun h => ?_⟩
  · rw [exec_encodeStr_ready hr, strSlots_out_of_range _ h, slotsReply]
  · obtain ⟨x, hx, hslots⟩ := strSlots_toList Config.cfg h
    exact ⟨x, by rw [exec_encodeStr_ready hr, hx, slotsReply], hslots⟩

/-- Settles O45: the fold's two ranges, and R51 of a legal table. -/
theorem foldChangesNoLookup : Obligations.FoldChangesNoLookup := by
  refine ⟨fun c h1 h2 => ?_, fun c h => ?_, fun cfg c h => glyphRead_fold h c⟩
  · rw [fold_eq, if_pos ⟨h1, h2⟩]
  · rw [fold_eq, if_neg (by omega)]

/-- Settles O46: the sign stands in the thousands digit's slot, so only the last three digits are shown. -/
theorem signClobbersTheLeftmostDigit : Obligations.SignClobbersTheLeftmostDigit := by
  refine ⟨fun s v x hr hx => ?_, fun cfg v hlow hneg => ?_, fun cfg v w hv hv' hw hw' h => ?_, fun cfg => ⟨?_, ?_⟩⟩
  · rw [exec_encodeInt_ready hr, hx, slotsReply]
  · exact ⟨_, intSlots_negative cfg (b := v.natAbs / 100 % 10) (c := v.natAbs / 10 % 10) (d := v.natAbs % 10) hlow hneg
      (by omega) (by omega) (by omega) (by omega), rfl, rfl, rfl, rfl⟩
  · exact intSlots_eq_of_mod cfg hv (by omega) (by omega) hw' (by omega)
  · exact intSlots_negative cfg (by decide) (by decide) (by decide) (by decide) (by decide) (by decide)
  · exact intSlots_eq_of_mod cfg (by decide) (by decide) (by decide) (by decide) rfl

/-- Settles O47: INV undoes each digit's glyph, and the error and blank clauses are those of R142, R145 and R52. -/
theorem sourcePropertiesHoldOfTheEncoder : Obligations.SourcePropertiesHoldOfTheEncoder := by
  refine ⟨⟨cfg_legal, fun s hr => ⟨exec_encodeInt_ready hr, exec_encodeStr_ready hr, exec_encodeChar_ready hr⟩⟩,
    fun cfg a b c d h ha hb hc hd => ?_, fun cfg v b c d h hneg hb hc hd hv => ?_, fun cfg => ⟨?_, ?_⟩, fun cfg => ?_,
    fun cfg => ?_, fun cfg h => ?_⟩
  · refine ⟨_, intSlots_of_digits cfg ha hb hc hd (Int.natAbs_natCast _), ?_⟩
    simp only [Slots.toList, if_neg (Int.not_lt.2 (Int.natCast_nonneg _)), List.map, inverseGlyph_digit h, ha, hb, hc, hd]
  · refine ⟨_, intSlots_negative cfg (by omega) hneg hb hc hd (by omega), rfl, ?_⟩
    simp only [List.map, inverseGlyph_digit h, hb, hc, hd]
  · exact intSlots_out_of_range cfg (by decide)
  · exact intSlots_out_of_range cfg (by decide)
  · exact strSlots_out_of_range cfg (by decide)
  · exact ⟨_, rfl, rfl, rfl⟩
  · obtain ⟨-, -, hz, -⟩ := (legal_iff cfg).1 h
    rw [charPattern, glyphRead_fold h, glyphRead, hz]

end

section
/-! PROOFS. The display requests (42_display_request.md R170 to R173): the validation step, which writes nothing, and the
update that follows it when the operands are in range (R255). -/

namespace Sys2Proof.Machine

/-! ### The validation step -/

theorem showSlots_error {op : Op} {job : Frame → Job} {slots : Except RangeError Slots} {colon : Bool} {bright : Int}
    {s : State} {e : RangeError} (h : slots = .error e) :
    showSlots op job slots colon bright s = .next (s.deliver (.err e)) := by
  rw [h, showSlots]

theorem showSlots_ok {op : Op} {job : Frame → Job} {slots : Except RangeError Slots} {colon : Bool} {bright : Int}
    {s : State} {x : Slots} (h : slots = .ok x) (htxn : s.txn = false) :
    showSlots op job slots colon bright s =
      .next (s.start (job ⟨x, colon, reduce Config.cfg.brightnessReduce bright⟩)) := by
  rw [h, showSlots, requireTxn_held htxn]

/-- R170: a ready block takes SHOW_INT to the validation of its encoded slots. -/
theorem exec_showInt_ready {s : State} (hr : s.Ready) (v : Int) (colon : Bool) (bright : Int) :
    exec (.showInt v colon bright) s = showSlots .showInt .showInt (intSlots Config.cfg v) colon bright s :=
  have ⟨hf, hq⟩ := hr
  accept_ready hf hq

/-- R171: a ready block takes SHOW_STR to the validation of its encoded slots. -/
theorem exec_showStr_ready {s : State} (hr : s.Ready) (str : List Byte) (colon : Bool) (bright : Int) :
    exec (.showStr str colon bright) s = showSlots .showStr .showStr (strSlots Config.cfg str) colon bright s :=
  have ⟨hf, hq⟩ := hr
  accept_ready hf hq

/-- R170, R171: a validated display request on a ready block with no transaction open is accepted. -/
theorem exec_of_validates {i : Instr} {job : Job} {s : State} (h : validates i job) (hr : s.Ready)
    (htxn : s.txn = false) : exec i s = .next (s.start job) := by
  cases i with
  | showInt v colon bright =>
    obtain ⟨x, hx, rfl⟩ := h
    rw [exec_showInt_ready hr, showSlots_ok hx htxn]
  | showStr str colon bright =>
    obtain ⟨x, hx, rfl⟩ := h
    rw [exec_showStr_ready hr, showSlots_ok hx htxn]
  | _ => exact h.elim

/-! ### The update after it -/

/-- R100: an accepted operation that has driven its whole waveform has ended. -/
theorem operated_of_driven {s t : State} {job : Job} {rest : List Call} {n : Nat} (hr : s.Ready)
    (hn : job.waveform.length = n) (hd : Driven ((s.setCalls rest).start job) t job 0 n) : t = s.operated job rest := by
  obtain ⟨hf, hq⟩ := hr
  have hprog : job.program.length = n := (program_length job).trans hn
  have hwave : (job.waveform.drop 0).take n = job.waveform := List.take_of_length_le hn.le
  have hafters : (job.afters.drop 0).take n = job.afters :=
    List.take_of_length_le (by rw [List.drop_zero, Job.afters, List.length_map, hprog])
  obtain ⟨hidle, hreplies⟩ := hd.ends (by omega)
  have hlines := hd.lines
  rw [hwave] at hlines
  apply State.eq_of_fields
  case clk => exact congrArg Prod.fst hlines
  case dio => exact congrArg Prod.snd hlines
  case txn => rw [hd.txn, hafters]; rfl
  case fault => exact hd.fault.trans hf.symm
  case trace => rw [hd.trace, hwave]; rfl
  case seq => exact hidle.trans hq.symm
  case refused => exact hd.refused
  case replies => exact hreplies
  case calls => exact hd.calls
  case answers => rw [hd.answers, ← hn]; rfl
  case draws => rw [hd.draws, hafters, ← hn]; rfl

/-- R255: an accepted operation whose n writes all succeed has ended after n micro-steps. -/
theorem run_start_of_successes {s : State} {job : Job} {rest : List Call} {n : Nat} {later : List Bool} (hr : s.Ready)
    (hcalls : dutiful rest = true) (hn : job.waveform.length = n) (ha : s.answers = List.replicate n true ++ later) :
    Host.Core.run Sys2Proof.core n ((s.setCalls rest).start job) = .next (s.operated job rest) := by
  have ⟨hf, _⟩ := hr
  have hc : ((s.setCalls rest).start job).Coherent := coherent_start _ job hf
  have hle : 0 + n ≤ job.program.length := by rw [program_length]; omega
  obtain ⟨t, hrun, ht⟩ := run_of_successes hc hf (State.start_seq _ _) hcalls hle ha
  have hd := run_driven hc hf (State.start_seq _ _) hcalls hle hrun ht
  rw [hrun, operated_of_driven hr hn hd]

/-- R105, R109: an update leaves both lines at 1 and no transaction open; a free value is used at its acceptance, at the end
of each of its seven bytes, and for each write past the answers. -/
theorem operated_update {s : State} {job : Job} {rest : List Call} (hu : job.isUpdate = true) (htxn : s.txn = false) :
    s.operated job rest =
      { s with
        clk := some true, dio := some true, trace := s.trace ++ job.waveform, replies := s.replies ++ [.ok .none],
        calls := rest, answers := s.answers.drop 213, draws := s.draws + 1 + (213 - s.answers.length) + 7 } := by
  have hclosed : updateAfters.foldl txnAfter false = false := by decide +kernel
  have hbytes : updateAfters.count .sendDone = 7 := by decide +kernel
  rw [State.operated, driveLines_update hu, update_length hu, afters_of_update hu, htxn, hclosed, hbytes]

/-! ### The brightness -/

/-- R172: an integer in 0..7 is kept by its three bits. -/
theorem toNat_ofNat_three {n : Int} (h0 : 0 ≤ n) (h8 : n < 8) : ((BitVec.ofNat 3 n.toNat).toNat : Int) = n := by
  rw [BitVec.toNat_ofNat]
  omega

theorem reduce_mask (b : Int) : ((reduce .mask b).toNat : Int) = b % 8 :=
  toNat_ofNat_three (Int.emod_nonneg b (by decide)) (Int.emod_lt_of_pos b (by decide))

theorem reduce_clamp (b : Int) : ((reduce .clamp b).toNat : Int) = min (max b 0) 7 :=
  toNat_ofNat_three (by omega) (by omega)

end Sys2Proof.Machine

open Sys2Proof Sys2Proof.Machine

/-- Settles O19: one step validates the request, and 213 successful writes end its update. -/
theorem showRequestsDriveTheirUpdate : Obligations.ShowRequestsDriveTheirUpdate := by
  intro s i x colon bright rest later hi hr htxn ha
  obtain ⟨job, hvalid, hwave⟩ : ∃ job, validates i job ∧
      job.waveform = wSet ⟨x, colon, reduce Config.cfg.brightnessReduce bright⟩ := by
    obtain ⟨v, rfl, hx⟩ | ⟨str, rfl, hx⟩ := hi
    · exact ⟨_, ⟨x, hx, rfl⟩, rfl⟩
    · exact ⟨_, ⟨x, hx, rfl⟩, rfl⟩
  have hu := isUpdate_of_validates hvalid
  have ⟨hready, hcalls, _⟩ := hr
  have hstep : step s = .next ((s.setCalls rest).start job) :=
    (step_of_receives hr).trans (exec_of_validates (s := s.setCalls rest) hvalid hready htxn)
  obtain ⟨hanswers, hused⟩ := answers_used ha
  rw [run_succ 213 hstep, run_start_of_successes hready hcalls (update_length hu) ha, operated_update hu htxn, hwave,
    hanswers, hused]

/-- Settles O38: a display request launches nothing, and of what is left to it none touches the trace, a line or
`st.txn`. -/
theorem rangeErrorHappensBeforeAnyBusActivity : Obligations.RangeErrorHappensBeforeAnyBusActivity := by
  refine ⟨fun s t i _ hi h => ?_, fun s v colon bright hr hv => ?_, fun s str colon bright hr hlen => ?_⟩
  · have hno (job n) : ¬ launches i job n := by
      obtain ⟨_, _, _, rfl⟩ | ⟨_, _, _, rfl⟩ := hi
      · exact id
      · exact id
    obtain ⟨-, ⟨_, _, _, -, rfl⟩ | ⟨-, ⟨_, rfl⟩ | ⟨_, rfl⟩ | ⟨job, n, hl, -⟩ | ⟨_, -, -, rfl⟩ | ⟨_, -, rfl⟩⟩⟩ :=
      exec_next h
    case inr.inr.inr.inl => exact absurd hl (hno job n)
    all_goals exact ⟨rfl, rfl, rfl, rfl⟩
  · rw [exec_showInt_ready hr, showSlots_error (intSlots_out_of_range _ hv), State.deliver]
  · rw [exec_showStr_ready hr, showSlots_error (strSlots_out_of_range _ hlen), State.deliver]

/-- Settles O48: both reductions fall in 0..7, which three bits hold. -/
theorem brightnessReductionFollowsItsMode : Obligations.BrightnessReductionFollowsItsMode := by
  refine ⟨reduce_mask, reduce_clamp, fun mode b h0 h7 => ?_, by decide, by decide⟩
  cases mode with
  | mask => rw [reduce_mask, Int.emod_eq_of_lt h0 (by omega)]
  | clamp => rw [reduce_clamp, max_eq_left h0, min_eq_left h7]

/-- Settles O14: a validated request is accepted and nothing else is done. -/
theorem showRequestsAreAcceptedBeforeAnyWrite : Obligations.ShowRequestsAreAcceptedBeforeAnyWrite :=
  ⟨fun _ _ _ _ x hr htxn hx => exec_of_validates ⟨x, hx, rfl⟩ hr htxn,
    fun _ _ _ _ x hr htxn hx => exec_of_validates ⟨x, hx, rfl⟩ hr htxn⟩

end

section
/-! PROOFS. Admission (60_exceptions.md R208, R209 items 1 and 2, R218): every instruction, whatever its own effect, passes the
same two checks first. And the refused mark (R207): what sets it, and that nothing clears it. -/

namespace Sys2Proof.Machine

/-! ### Admission -/

/-- R206: held or broken, the precondition has a next state. -/
theorem requireTxn_answers (op : Op) (needed : Bool) (s t : State) : ∃ u, requireTxn op needed s t = .next u := by
  by_cases h : s.txn = needed
  · exact ⟨t, requireTxn_held h⟩
  · exact ⟨s.raiseFault (.protocolMisuse op), requireTxn_broken h⟩

/-- R170, R171: the validation step has a next state, whatever it finds. -/
theorem showSlots_answers (op : Op) (job : Frame → Job) (slots : Except RangeError Slots) (colon : Bool) (bright : Int)
    (s : State) : ∃ u, showSlots op job slots colon bright s = .next u := by
  cases slots with
  | error e => exact ⟨s.deliver (.err e), showSlots_error rfl⟩
  | ok x => exact requireTxn_answers _ _ _ _

/-- R209: an instruction is admitted under its own selector, and one that is admitted has a next state. -/
theorem exec_admits (i : Instr) (s : State) : ∃ t, exec i s = accept i.selector s (.next t) := by
  cases i with
  | encodeChar | encodeInt | encodeStr | reserved => exact ⟨_, rfl⟩
  | beginTxn | sendByte | endTxn | setDisplay | cmdModeAutoinc | cmdAddr0 | cmdDisplayOn | dataSegment =>
    exact (requireTxn_answers _ _ _ _).imp fun _ h => congrArg (accept _ s) h
  | showInt | showStr => exact (showSlots_answers _ _ _ _ _ _).imp fun _ h => congrArg (accept _ s) h

/-- R208: no instruction has a next state in a faulted block. -/
theorem exec_faulted {s : State} {c : FaultCause} (i : Instr) (hf : s.fault = some c) :
    exec i s = .fault (.blockFaulted c) := by
  obtain ⟨_, h⟩ := exec_admits i s
  exact h.trans (accept_faulted hf)

/-- R218: every instruction is refused while an operation runs. -/
theorem exec_running {s : State} {job : Job} {k : Nat} {w : Work} (i : Instr) (hf : s.fault = none)
    (hq : s.seq = .running job k w) : exec i s = .next (s.refuse (.concurrentRequest i.selector)) := by
  obtain ⟨_, h⟩ := exec_admits i s
  exact h.trans (accept_running hf hq)

/-- Every instruction has a next state on a ready block. -/
theorem exec_ready_answers {s : State} (i : Instr) (hr : s.Ready) : ∃ t, exec i s = .next t := by
  obtain ⟨hf, hq⟩ := hr
  obtain ⟨t, h⟩ := exec_admits i s
  exact ⟨t, h.trans (accept_ready hf hq)⟩

/-! ### The refused mark -/

theorem State.advance_refused (s : State) (job : Job) (k : Nat) (w : Work) :
    (s.advance job k w).refused = s.refused := by
  obtain ⟨-, e⟩ | ⟨-, e⟩ := advance_cases s job k w <;> rw [e]
  · exact State.setSeq_refused _ _
  · exact State.complete_refused _

theorem microStep_refused (s : State) : (microStep s).refused = s.refused := by
  obtain ⟨-, e⟩ | ⟨_, _, _, -, -, e⟩ | ⟨_, _, _, _, -, -, -, e⟩ | ⟨_, _, _, _, -, -, -, e⟩ := microStep_cases s <;> rw [e]
  · exact State.complete_refused s
  · simp [State.advance_refused]
  · simp

/-- R207: an instruction leaves the mark as it is, or is refused. -/
theorem exec_refused {i : Instr} {s t : State} (h : exec i s = .next t) :
    t.refused = s.refused ∨ ∃ r, t = s.refuse r := by
  obtain ⟨-, ⟨_, _, _, -, rfl⟩ | ⟨-, ⟨_, rfl⟩ | ⟨_, rfl⟩ | ⟨job, _, -, -, rfl⟩ | ⟨_, -, -, rfl⟩ | ⟨_, -, rfl⟩⟩⟩ :=
    exec_next h
  · exact .inr ⟨_, rfl⟩
  · exact .inl rfl
  · exact .inl rfl
  · exact .inl (microStep_refused (s.start job))
  · exact .inl rfl
  · exact .inr ⟨_, rfl⟩

/-- R207: a step leaves the mark as it is, or refuses the call it takes. -/
theorem step_refused {s t : State} (h : step s = .next t) :
    t.refused = s.refused ∨ ∃ rest r, t = (s.setCalls rest).refuse r := by
  obtain ⟨-, ⟨-, rfl⟩ | ⟨_, rest, -, -, he⟩⟩ := step_next h
  · exact .inl (microStep_refused s)
  · exact (exec_refused he).imp_right fun hr => ⟨rest, hr⟩

end Sys2Proof.Machine

open Sys2Proof Sys2Proof.Machine

/-- Settles O33: admission's first check, and `step`'s. -/
theorem faultedBlockHasNoStep : Obligations.FaultedBlockHasNoStep :=
  fun i _ _ hf => ⟨exec_faulted i hf, step_faulted hf⟩

/-- Settles O34: admission's second check, before the instruction's own effect. -/
theorem requestWhileRunningIsRefused : Obligations.RequestWhileRunningIsRefused :=
  fun i _ _ _ _ hf hq => exec_running i hf hq

/-- Settles O40: only a refusal writes the mark, and it writes nothing else of the block. -/
theorem refusedMarkIsSticky : Obligations.RefusedMarkIsSticky := by
  intro s t h
  obtain hsame | ⟨rest, r, rfl⟩ := step_refused h
  · exact ⟨fun hs => hsame.trans hs, fun hne => absurd hsame hne⟩
  · exact ⟨fun _ => rfl, fun _ => ⟨rfl, rfl, rfl, rfl, rfl, rfl⟩⟩

end

section
/-! PROOFS. The precondition on `st.txn` (60_exceptions.md R206): where it fails the operation faults before any write, and an
external request of a quiescent block never fails it. And the order of the checks (R209). -/

namespace Sys2Proof.Machine

/-- R206: a bus operation on a ready block with the wrong `st.txn` faults. -/
theorem exec_busOp_misuse {i : Instr} {needed : Bool} {job : Job} {s : State} (hi : IsBusOp i needed job) (hr : s.Ready)
    (htxn : s.txn ≠ needed) : exec i s = .next (s.raiseFault (.protocolMisuse job.op)) :=
  (exec_busOp hi hr).trans (requireTxn_broken htxn)

/-- Log entry 12: outside a transaction a wire row faults as SEND_BYTE does, whatever its byte. -/
theorem exec_wireByte_misuse {i : Instr} {b : Byte} {s : State} (hi : wireByte i = some b) (hr : s.Ready)
    (htxn : s.txn = false) : exec i s = .next (s.raiseFault (.protocolMisuse .sendByte)) :=
  (exec_wireByte_eq_sendByte hi (.inr (.inl htxn))).trans (exec_busOp_misuse (.sendByte b) hr (by simp [htxn]))

/-- Log entry 19: a validated display request inside a transaction faults under its own name. -/
theorem showSlots_misuse {op : Op} {job : Frame → Job} {slots : Except RangeError Slots} {colon : Bool} {bright : Int}
    {s : State} {x : Slots} (h : slots = .ok x) (htxn : s.txn = true) :
    showSlots op job slots colon bright s = .next (s.raiseFault (.protocolMisuse op)) := by
  rw [h, showSlots, requireTxn_broken (by simp [htxn])]

theorem exec_showInt_misuse {s : State} {v : Int} (hr : s.Ready) (htxn : s.txn = true) (hv : v.natAbs < 10000)
    (colon : Bool) (bright : Int) :
    exec (.showInt v colon bright) s = .next (s.raiseFault (.protocolMisuse .showInt)) := by
  obtain ⟨_, hx⟩ := intSlots_in_range Config.cfg hv
  exact (exec_showInt_ready hr v colon bright).trans (showSlots_misuse hx htxn)

theorem exec_showStr_misuse {s : State} {str : List Byte} (hr : s.Ready) (htxn : s.txn = true) (hlen : str.length ≤ 4)
    (colon : Bool) (bright : Int) :
    exec (.showStr str colon bright) s = .next (s.raiseFault (.protocolMisuse .showStr)) := by
  obtain ⟨_, hx⟩ := strSlots_in_range Config.cfg hlen
  exact (exec_showStr_ready hr str colon bright).trans (showSlots_misuse hx htxn)

/-- A micro-step reads no precondition: its only fault is a failed write (R101). -/
theorem microStep_no_misuse {s : State} {op : Op} (hf : s.fault = none) :
    (microStep s).fault ≠ some (.protocolMisuse op) := by
  obtain ⟨-, e⟩ | ⟨_, _, _, -, -, e⟩ | ⟨_, _, _, _, -, -, -, e⟩ | ⟨_, _, _, _, -, -, -, e⟩ := microStep_cases s <;> rw [e]
  · simp [hf]
  · simp [hf]
  · simp [State.advance_keeps, hf]
  · simp

/-- R206: with no transaction open, a display request on a ready block is answered with a range error or accepted. -/
theorem showSlots_closed {op : Op} {job : Frame → Job} {slots : Except RangeError Slots} {colon : Bool} {bright : Int}
    {s : State} (htxn : s.txn = false) :
    (∃ r, showSlots op job slots colon bright s = .next (s.deliver r)) ∨
      ∃ j, showSlots op job slots colon bright s = .next (s.start j) := by
  cases slots with
  | error e => exact .inl ⟨_, showSlots_error rfl⟩
  | ok x => exact .inr ⟨_, showSlots_ok rfl htxn⟩

/-- R206: with no transaction open, an external request on a ready block is answered at once, launched or accepted. -/
theorem exec_external_closed {i : Instr} {s : State} (hi : i.opClass = .external) (hr : s.Ready) (htxn : s.txn = false) :
    (∃ r, exec i s = .next (s.deliver r)) ∨ (∃ job, exec i s = .next (s.start job)) ∨
      ∃ job, exec i s = .next (s.launch job) := by
  cases i with
  | setDisplay => exact .inr (.inr ⟨_, exec_busOp_launch (.setDisplay _ _ _) hr htxn⟩)
  | encodeChar c => exact .inl ⟨_, exec_encodeChar_ready hr c⟩
  | encodeInt v => exact .inl ⟨_, exec_encodeInt_ready hr v⟩
  | encodeStr str => exact .inl ⟨_, exec_encodeStr_ready hr str⟩
  | showInt v colon bright =>
    rw [exec_showInt_ready hr]
    exact (showSlots_closed htxn).imp_right .inl
  | showStr str colon bright =>
    rw [exec_showStr_ready hr]
    exact (showSlots_closed htxn).imp_right .inl
  | beginTxn | sendByte | endTxn | reserved | cmdModeAutoinc | cmdAddr0 | cmdDisplayOn | dataSegment => cases hi

/-- R206, R38: an external request never finds a transaction open on an idle block, and is refused on a running one. -/
theorem exec_external_no_misuse {i : Instr} {s t : State} {op : Op} (hs : s.ExternalInv) (hi : i.opClass = .external)
    (hf : s.fault = none) (h : exec i s = .next t) : t.fault ≠ some (.protocolMisuse op) := by
  cases hq : s.seq with
  | running job k w =>
    cases h.symm.trans (exec_running i hf hq)
    simp [hf]
  | idle =>
    obtain ⟨-, hbus⟩ := (externalInv_idle hq).1 hs
    obtain ⟨htxn, -⟩ := hbus hf
    obtain ⟨_, e⟩ | ⟨_, e⟩ | ⟨job, e⟩ := exec_external_closed hi ⟨hf, hq⟩ htxn <;> cases h.symm.trans e
    · simp [hf]
    · simp [hf]
    · exact microStep_no_misuse (s := s.start job) hf

end Sys2Proof.Machine

open Sys2Proof Sys2Proof.Machine

/-- Settles O36: each operation's precondition is broken, a display request's once its operands are found in range. -/
theorem misuseFaultsBeforeAnyWrite : Obligations.MisuseFaultsBeforeAnyWrite := by
  rintro s i op hr (⟨htxn, rfl, b, rfl⟩ | ⟨htxn, rfl, hi⟩ | ⟨htxn, rfl, rfl⟩ | ⟨htxn, rfl, rfl⟩ |
    ⟨htxn, rfl, slots, colon, bright3, rfl⟩ | ⟨htxn, rfl, v, colon, bright, hv, rfl⟩ |
    ⟨htxn, rfl, str, colon, bright, hlen, rfl⟩)
  · exact exec_busOp_misuse (.sendByte b) hr (by simp [htxn])
  · obtain ⟨b, hb⟩ : ∃ b, wireByte i = some b := by
      obtain rfl | rfl | ⟨_, rfl⟩ | ⟨_, _, rfl⟩ := hi <;> exact ⟨_, rfl⟩
    exact exec_wireByte_misuse hb hr htxn
  · exact exec_busOp_misuse .endTxn hr (by simp [htxn])
  · exact exec_busOp_misuse .beginTxn hr (by simp [htxn])
  · exact exec_busOp_misuse (.setDisplay slots colon bright3) hr (by simp [htxn])
  · exact exec_showInt_misuse hr htxn hv colon bright
  · exact exec_showStr_misuse hr htxn hlen colon bright

/-- Settles O37: a micro-step's only fault is a failed write, and the call that is due is an external one. -/
theorem externalRequestsNeverMisuse : Obligations.ExternalRequestsNeverMisuse := by
  intro s t op hs h
  obtain ⟨hf, ⟨-, rfl⟩ | ⟨c, rest, hcalls, -, he⟩⟩ := step_next h
  · exact microStep_no_misuse hf
  · have hc : c.external = true := by
      obtain ⟨-, hext, -⟩ := hs
      exact hext c (by simp [hcalls])
    have hs' : (s.setCalls rest).ExternalInv := externalInv_of_same hs rfl rfl rfl rfl rfl (by simp [hcalls])
    exact exec_external_no_misuse hs' (of_decide_eq_true hc) hf he

/-- Settles O39: one lemma per condition, in R209's order. -/
theorem conditionsAreCheckedInOrder : Obligations.ConditionsAreCheckedInOrder := by
  obtain ⟨-, hint, hstr⟩ := rangeErrorHappensBeforeAnyBusActivity
  refine ⟨fun i s c hf => exec_faulted i hf, fun i s hf hq => ?_, fun op s ⟨hf, hq⟩ => ⟨_, accept_ready hf hq, rfl⟩,
    fun s v c b hr hv => ⟨⟨_, exec_encodeInt_ready hr v, ?_⟩, _, hint s v c b hr hv, rfl⟩,
    fun s str c b hr hlen => ⟨⟨_, exec_encodeStr_ready hr str, ?_⟩, _, hstr s str c b hr hlen, rfl⟩,
    fun s hr => ⟨fun htxn => ?_, fun htxn => ?_⟩, fun s job k w p v hc hf hq hcall hw ha => ?_⟩
  · cases hs : s.seq with
    | idle => exact absurd hs hq
    | running job k w => exact ⟨_, _, exec_running i hf hs, rfl⟩
  · rw [intSlots_out_of_range _ hv, slotsReply]
  · rw [strSlots_out_of_range _ hlen, slotsReply]
  · have hopen : s.txn ≠ false := by simp [htxn]
    exact ⟨⟨_, exec_busOp_misuse .beginTxn hr hopen, rfl⟩,
      fun x c b => ⟨_, exec_busOp_misuse (.setDisplay x c b) hr hopen, rfl⟩,
      fun v c b hv => ⟨_, _, exec_showInt_misuse hr htxn hv c b, rfl⟩,
      fun str c b hlen => ⟨_, _, exec_showStr_misuse hr htxn hlen c b, rfl⟩⟩
  · have hclosed : s.txn ≠ true := by simp [htxn]
    exact ⟨fun b => ⟨_, exec_busOp_misuse (.sendByte b) hr hclosed, rfl⟩,
      ⟨_, exec_busOp_misuse .endTxn hr hclosed, rfl⟩⟩
  · obtain ⟨t, hstep, -, -, -, -, -, -, hreplies, -, hstop⟩ :=
      failedPinWriteFaultsTheBlock s job k w p v hc hf hq hcall hw ha
    exact ⟨t, hstep, hreplies, hstop⟩

end

section
/-! PROOFS. The bounded end of every request (70_reset_and_hazards.md R255, 60_exceptions.md R200): a running operation has a
write less to do with each step, or ends with that step, and the longest has 213. -/

namespace Sys2Proof.Machine

/-- R108: no operation has more writes than an update. -/
theorem waveform_length_le (job : Job) : job.waveform.length ≤ 213 := by
  cases job with
  | beginTxn | endTxn => decide
  | sendByte b => exact (wSend_length b).trans_le (by decide)
  | setDisplay | showInt | showStr => exact (update_length rfl).le

/-- Within `bound` steps from s the block is idle again, with one more outcome delivered and the calls of `rest` left. -/
def EndsWithin (bound : Nat) (s : State) (rest : List Call) : Prop :=
  ∃ (n : Nat) (t : State) (r : Reply), n ≤ bound ∧ Host.Core.run Sys2Proof.core n s = .next t ∧ t.seq = .idle ∧
    t.replies = s.replies ++ [r] ∧ t.calls = rest

theorem EndsWithin.mono {s : State} {rest : List Call} {m n : Nat} (h : EndsWithin m s rest) (hmn : m ≤ n) :
    EndsWithin n s rest := by
  obtain ⟨k, t, r, hk, hend⟩ := h
  exact ⟨k, t, r, hk.trans hmn, hend⟩

/-- The next step delivers the outcome. -/
theorem EndsWithin.of_last_step {s t : State} {rest : List Call} {r : Reply} (bound : Nat) (h : step s = .next t)
    (seq : t.seq = .idle) (replies : t.replies = s.replies ++ [r]) (calls : t.calls = rest) :
    EndsWithin (bound + 1) s rest :=
  ⟨1, t, r, by omega, run_succ 0 h, seq, replies, calls⟩

/-- The next step delivers none, and what it leaves ends. -/
theorem EndsWithin.of_step {s t : State} {rest : List Call} {bound : Nat} (h : step s = .next t)
    (replies : t.replies = s.replies) (ht : EndsWithin bound t rest) : EndsWithin (bound + 1) s rest := by
  obtain ⟨n, u, r, hn, hrun, hidle, hreplies, hcalls⟩ := ht
  exact ⟨n + 1, u, r, by omega, (run_succ n h).trans hrun, hidle, replies ▸ hreplies, hcalls⟩

/-- R114, R255: a running operation ends within as many steps as it has writes left, if callers keep R221. -/
theorem running_endsWithin {s : State} {job : Job} {k n : Nat} {w : Work} (hc : s.Coherent) (hf : s.fault = none)
    (hq : s.seq = .running job k w) (hcalls : dutiful s.calls = true) (hn : job.waveform.length ≤ k + n) :
    EndsWithin n s s.calls := by
  induction n generalizing s k w with
  | zero =>
    have hk := position_lt_of_coherent hc hq
    omega
  | succ n ih =>
    obtain ⟨t, hstep, hkept, ⟨-, htf, hreplies, w', hrun⟩ | ⟨-, -, hreplies, hidle⟩ | ⟨_, _, -, -, hreplies, hidle⟩⟩ :=
      runningOperationIsNotInterrupted s job k w hc hf hq hcalls
    · have hlater : EndsWithin n t t.calls := ih (step_coherent hc hstep) htf hrun (hkept ▸ hcalls) (by omega)
      exact .of_step hstep hreplies (hkept ▸ hlater)
    · exact .of_last_step n hstep hidle hreplies hkept
    · exact .of_last_step n hstep hidle hreplies hkept

/-- An accepted operation ends within the 213 writes of the longest. -/
theorem start_endsWithin {s : State} {rest : List Call} (job : Job) (hf : s.fault = none) (hcalls : dutiful rest = true) :
    EndsWithin 213 ((s.setCalls rest).start job) rest :=
  running_endsWithin (coherent_start _ job hf) hf (State.start_seq _ _) hcalls
    ((waveform_length_le job).trans (Nat.le_add_left 213 0))

/-- Log entry 1: a launched operation has its acceptance in the step of write 0, so it takes no step more. -/
theorem launch_endsWithin {s : State} {i : Instr} {job : Job} {rest : List Call} (hr : s.Receives i rest)
    (hl : exec i (s.setCalls rest) = .next ((s.setCalls rest).launch job)) : EndsWithin 213 s rest := by
  have ⟨⟨hf, _⟩, hdutiful, _⟩ := hr
  obtain ⟨n, t, r, hn, hrun, hidle, hreplies, hcalls⟩ := start_endsWithin job hf hdutiful
  cases n with
  | zero =>
    cases hrun
    cases hidle
  | succ n => exact ⟨n + 1, t, r, hn, (run_of_launch n hr hl).trans hrun, hidle, hreplies, hcalls⟩

end Sys2Proof.Machine

open Sys2Proof Sys2Proof.Machine

/-- Settles O22: a request is answered in its first step, or is an operation launched or accepted there; a display request
has the validation step before its update's 213 writes. -/
theorem everyRequestEndsInOneOutcome : Obligations.EveryRequestEndsInOneOutcome := by
  intro s i rest hr
  have ⟨⟨hf, hq⟩, hdutiful, _⟩ := hr
  obtain ⟨t, he⟩ := exec_ready_answers (s := s.setCalls rest) i ⟨hf, hq⟩
  have hstep : step s = .next t := (step_of_receives hr).trans he
  obtain ⟨-, ⟨_, _, _, hq', -⟩ | ⟨-, ⟨_, rfl⟩ | ⟨_, rfl⟩ | ⟨job, _, -, -, rfl⟩ | ⟨job, -, -, rfl⟩ | ⟨_, -, rfl⟩⟩⟩ :=
    exec_next he
  · cases hq.symm.trans hq'
  · exact EndsWithin.of_last_step 213 hstep hq rfl rfl
  · exact EndsWithin.of_last_step 213 hstep rfl rfl rfl
  · exact (launch_endsWithin hr he).mono (by decide)
  · exact (start_endsWithin job hf hdutiful).of_step hstep rfl
  · exact EndsWithin.of_last_step 213 hstep hq rfl rfl

end

section
/-! PROOFS. Construction (70_reset_and_hazards.md R230 to R232): the configurations it accepts are those whose pins and glyphs
keep the constraints of 20_memory.md R51 to R54. -/

namespace Sys2Proof.Machine

/-- R230, R232: construction has its two outcomes by whether the configuration is legal. -/
theorem construct_of_legal {cfg : Config} (h : cfg.legal = true) : construct cfg = .built ⟨cfg, h⟩ State.reset :=
  dif_pos h

theorem construct_of_not_legal {cfg : Config} (h : ¬cfg.legal = true) : construct cfg = .badConfig cfg :=
  dif_neg h

theorem construct_eq_badConfig_iff (cfg : Config) : construct cfg = .badConfig cfg ↔ ¬cfg.legal = true := by
  refine ⟨fun hbad hlegal => ?_, construct_of_not_legal⟩
  cases (construct_of_legal hlegal).symm.trans hbad

/-- R53: the digit patterns are the encoder's digit glyphs. -/
theorem digitPatterns_eq (cfg : Config) : cfg.digitPatterns = (List.range 10).map (digitGlyph cfg) := rfl

/-- R53, digit by digit. -/
theorem digitsDistinct_iff (cfg : Config) :
    cfg.digitsDistinct = true ↔
      (∀ m n, m < n → n < 10 → digitGlyph cfg m ≠ digitGlyph cfg n) ∧ ∀ n, n < 10 → digitGlyph cfg n ≠ 0x00#8 := by
  have hnodup : cfg.digitPatterns.Nodup ↔ ∀ m n, m < n → n < 10 → digitGlyph cfg m ≠ digitGlyph cfg n := by
    rw [digitPatterns_eq, List.Nodup, List.pairwise_map, List.pairwise_iff_getElem]
    simp only [List.length_range, List.getElem_range]
    exact ⟨fun h m n hmn hn => h m n (hmn.trans hn) hn hmn, fun h m n _ hn hmn => h m n hmn hn⟩
  rw [Config.digitsDistinct, Bool.and_eq_true, decide_eq_true_iff, hnodup, digitPatterns_eq]
  simp

/-- R54, digit by digit. -/
theorem minusDistinct_iff (cfg : Config) :
    cfg.minusDistinct = true ↔ cfg.minusGlyph ≠ 0x00#8 ∧ ∀ n, n < 10 → digitGlyph cfg n ≠ cfg.minusGlyph := by
  rw [Config.minusDistinct, digitPatterns_eq]
  simp

end Sys2Proof.Machine

open Sys2Proof Sys2Proof.Machine

/-- Settles O60: construction tests whether the configuration is legal, and legality is the constraints of R51 to R54 and the
distinct pins. -/
theorem constructionRefusesBadConfigurations : Obligations.ConstructionRefusesBadConfigurations := by
  refine fun cfg => ⟨?_, ?_⟩
  · by_cases h : cfg.legal = true
    · exact .inl ⟨⟨cfg, h⟩, construct_of_legal h, rfl⟩
    · exact .inr (construct_of_not_legal h)
  · rw [construct_eq_badConfig_iff, legal_iff, glyphFolds_iff, digitsDistinct_iff, minusDistinct_iff]
    simp only [digitGlyph_eq, not_and_or, not_forall, not_not, exists_prop, ne_eq, or_assoc]

end
